-- ==== Sys2Proof/Word.lean ====
section
/-! DEFINITION. The word types of the machine and their plainest names (spec/00_scope.md rules R4, R7, R8).

Bit 31 is the most significant bit of a word and bit 0 the least (rule R7).  `signed(v)` of rule R8 is
`BitVec.toInt`, `unsigned(v)` is `BitVec.toNat`, and `+`, `-` on words are modulo 2^32. -/

namespace Sys2Proof

/-- A 32-bit word: a register, an address, an instruction (rule R4). -/
abbrev Word := BitVec 32

/-- A byte, 8 bits (rule R11, decision D35). -/
abbrev Byte := BitVec 8

/-- A halfword, 16 bits (rule R11, decision D35). -/
abbrev Half := BitVec 16

/-- The number of a general register: the 5-bit fields `rs0`, `rs1`, `rd` (rule R20). -/
abbrev RegNum := BitVec 5

end Sys2Proof
end

