-- ==== Sys2Proof/Config.lean ====
section
/-! DEFINITION. What one implementation fixes: the named open parameters of spec/00_scope.md rule R6, as plain
data with the defaults the spec decided (spec/92_eei_decisions.md), and the free values (the draws of rule R9 and
the bytes nothing has written, rule R231), which have no body. -/

namespace Sys2Proof

/-- `ENDIAN`, the byte order of the data memory (rule R41, decision D1). -/
inductive Endian where
  | big
  | little
deriving DecidableEq, Repr

/-- `R0_POLICY`, what register 0 is (rule R21, decision D2). -/
inductive R0Policy where
  /-- ordinary, but writing a value other than 0 is `fault(R0Write)` -/
  | refuse
  /-- like the other 31 registers -/
  | ordinary
  /-- reads 0 always, writes are discarded -/
  | hardwired
deriving DecidableEq, Repr

/-- `MUL_RESULT`, which 32 bits of the 64-bit product MULT and MULTU write (rule R110, decision D14). -/
inductive ProductHalf where
  | low
  | high
deriving DecidableEq, Repr

/-- `LINK_REG_JALR`: a fixed register, or the `rd` field (rule R188, decision D19). -/
inductive JalrLink where
  | reg (r : RegNum)
  | rdField
deriving DecidableEq, Repr

/-- The open parameters of rule R6.  `MISALIGN` has the one value "model fault" and `HALT` is a convention about
runs (`Machine.atEnd`), so neither is a field; `DIV0` and `DIVOVF` are the free values below. -/
structure Config where
  /-- `ENDIAN` -/
  endian : Endian
  /-- `R0_POLICY` -/
  r0Policy : R0Policy
  /-- `GPR_RESET` -/
  gprReset : Word
  /-- `BRANCH_BASE` -/
  branchBase : Word
  /-- `J_SHIFT` -/
  jShift : Nat
  /-- `B_SHIFT` -/
  bShift : Nat
  /-- `RESET_PC` -/
  resetPc : Word
  /-- `RESET_IR` -/
  resetIr : Word
  /-- `UIMM_ZEXT` -/
  uimmZext : Bool
  /-- `SHAMT_BITS` -/
  shamtBits : Nat
  /-- `MUL_RESULT` -/
  mulResult : ProductHalf
  /-- `LINK_REG_JAL` -/
  linkRegJal : RegNum
  /-- `LINK_REG_JALR` -/
  linkRegJalr : JalrLink
  /-- `LINK_OFFSET` -/
  linkOffset : Word
  /-- `RAW_DISTANCE` -/
  rawDistance : Nat
deriving DecidableEq, Repr

/-- The defaults of rule R6. -/
def Config.default : Config :=
  { endian := .big
    r0Policy := .refuse
    gprReset := 0
    branchBase := 4
    jShift := 2
    bShift := 0
    resetPc := 0
    resetIr := 0
    uimmZext := true
    shamtBits := 5
    mulResult := .low
    linkRegJal := 31
    linkRegJalr := .reg 31
    linkOffset := 8
    rawDistance := 0 }

/-- The draw `DIV0` (rule R114): what the n-th draw of a run gives for a division by zero.  No body: any word. -/
opaque Config.divByZero : Nat → Word

/-- The draw `DIVOVF` (rule R114): what the n-th draw of a run gives for 0x80000000 / 0xFFFFFFFF.  No body. -/
opaque Config.divOverflow : Nat → Word

/-- What a byte of data memory holds that neither the launch nor the program has written (rule R231): no known
value.  No body: any byte, the same at every read of an address until it is written (rule R54). -/
opaque Config.unwrittenByte : Nat → Byte

end Sys2Proof
end

