-- ==== Sys2Proof/Syntax.lean ====
section
/-! DEFINITION. The instructions: one constructor per row of spec/opcode_table.json, with every field the row's
format has (spec/30_encoding.md rules R71 to R74), in the order of the bits.  A field that an instruction ignores
(rule R80) is kept, so that an instruction and its word determine each other. -/

namespace Sys2Proof

/-- The 51 instructions of rule R2. -/
inductive Instr where
  -- RR format (rule R71), rows of rule R76.
  /-- SLL, rule R131 -/
  | sll (rs0 rs1 rd : RegNum)
  /-- SRL, rule R132 -/
  | srl (rs0 rs1 rd : RegNum)
  /-- SRA, rule R133 -/
  | sra (rs0 rs1 rd : RegNum)
  /-- JR, rule R187 -/
  | jr (rs0 rs1 rd : RegNum)
  /-- JALR, rule R188 -/
  | jalr (rs0 rs1 rd : RegNum)
  /-- MULT, rule R110 -/
  | mult (rs0 rs1 rd : RegNum)
  /-- MULTU, rule R111 -/
  | multu (rs0 rs1 rd : RegNum)
  /-- DIV, rule R112 -/
  | div (rs0 rs1 rd : RegNum)
  /-- DIVU, rule R113 -/
  | divu (rs0 rs1 rd : RegNum)
  /-- ADD, rule R102 -/
  | add (rs0 rs1 rd : RegNum)
  /-- ADDU, rule R103 -/
  | addu (rs0 rs1 rd : RegNum)
  /-- SUB, rule R106 -/
  | sub (rs0 rs1 rd : RegNum)
  /-- SUBU, rule R107 -/
  | subu (rs0 rs1 rd : RegNum)
  /-- AND, rule R120 -/
  | and (rs0 rs1 rd : RegNum)
  /-- OR, rule R122 -/
  | or (rs0 rs1 rd : RegNum)
  /-- XOR, rule R124 -/
  | xor (rs0 rs1 rd : RegNum)
  /-- SLT, rule R141 -/
  | slt (rs0 rs1 rd : RegNum)
  /-- SGT, rule R142 -/
  | sgt (rs0 rs1 rd : RegNum)
  /-- SLE, rule R143 -/
  | sle (rs0 rs1 rd : RegNum)
  /-- SGE, rule R144 -/
  | sge (rs0 rs1 rd : RegNum)
  /-- SEQ, rule R145 -/
  | seq (rs0 rs1 rd : RegNum)
  /-- SNE, rule R146 -/
  | sne (rs0 rs1 rd : RegNum)
  -- J format (rule R74), rows of rule R77.
  /-- J, rule R185 -/
  | j (offset : BitVec 26)
  /-- JAL, rule R186 -/
  | jal (offset : BitVec 26)
  -- RI and B format (rules R72, R73), rows of rule R78.
  /-- BEQZ, rule R183 -/
  | beqz (rs0 rs1 : RegNum) (imm : Half)
  /-- BNEZ, rule R184 -/
  | bnez (rs0 rs1 : RegNum) (imm : Half)
  /-- ADDI, rule R104 -/
  | addi (rs0 rs1 : RegNum) (imm : Half)
  /-- ADDUI, rule R105 -/
  | addui (rs0 rs1 : RegNum) (imm : Half)
  /-- SUBI, rule R108 -/
  | subi (rs0 rs1 : RegNum) (imm : Half)
  /-- SUBUI, rule R109 -/
  | subui (rs0 rs1 : RegNum) (imm : Half)
  /-- ANDI, rule R121 -/
  | andi (rs0 rs1 : RegNum) (imm : Half)
  /-- ORI, rule R123 -/
  | ori (rs0 rs1 : RegNum) (imm : Half)
  /-- XORI, rule R125 -/
  | xori (rs0 rs1 : RegNum) (imm : Half)
  /-- LHI, rule R161 -/
  | lhi (rs0 rs1 : RegNum) (imm : Half)
  /-- SLLI, rule R134 -/
  | slli (rs0 rs1 : RegNum) (imm : Half)
  /-- SRLI, rule R135 -/
  | srli (rs0 rs1 : RegNum) (imm : Half)
  /-- SRAI, rule R136 -/
  | srai (rs0 rs1 : RegNum) (imm : Half)
  /-- SLTI, rule R147 -/
  | slti (rs0 rs1 : RegNum) (imm : Half)
  /-- SGTI, rule R148 -/
  | sgti (rs0 rs1 : RegNum) (imm : Half)
  /-- SLEI, rule R149 -/
  | slei (rs0 rs1 : RegNum) (imm : Half)
  /-- SGEI, rule R150 -/
  | sgei (rs0 rs1 : RegNum) (imm : Half)
  /-- SEQI, rule R151 -/
  | seqi (rs0 rs1 : RegNum) (imm : Half)
  /-- SNEI, rule R152 -/
  | snei (rs0 rs1 : RegNum) (imm : Half)
  /-- LB, rule R162 -/
  | lb (rs0 rs1 : RegNum) (imm : Half)
  /-- LH, rule R164 -/
  | lh (rs0 rs1 : RegNum) (imm : Half)
  /-- LW, rule R166 -/
  | lw (rs0 rs1 : RegNum) (imm : Half)
  /-- LBU, rule R163 -/
  | lbu (rs0 rs1 : RegNum) (imm : Half)
  /-- LHU, rule R165 -/
  | lhu (rs0 rs1 : RegNum) (imm : Half)
  /-- SB, rule R167 -/
  | sb (rs0 rs1 : RegNum) (imm : Half)
  /-- SH, rule R168 -/
  | sh (rs0 rs1 : RegNum) (imm : Half)
  /-- SW, rule R169 -/
  | sw (rs0 rs1 : RegNum) (imm : Half)
deriving DecidableEq, Repr

end Sys2Proof
end

