-- ==== Sys2Proof/WellFormed.lean ====
section
/-! DEFINITION. The checks on data a user writes: the form an assembler gives an instruction, and the parameter
values that mean something.

Every field of `Instr` has the type of its width, so every term of `Instr` is an instruction of rules R76 to R78
and decodes and runs; `Instr.assembled` is the narrower form of what an assembler writes (rule R80, decision D24).
No meaning and no statement about executing asks for it. -/

namespace Sys2Proof

/-- The fields an instruction does not use are 0, as an assembler writes them (rule R80): `rs1` and `rd` of JR and
JALR, `rs1` of BEQZ and BNEZ, `rs0` of LHI, bits 15..5 of the immediate of SLLI, SRLI, SRAI. -/
def Instr.assembled : Instr → Bool
  | .jr _ rs1 rd | .jalr _ rs1 rd => rs1 = 0 && rd = 0
  | .beqz _ rs1 _ | .bnez _ rs1 _ => rs1 = 0
  | .lhi rs0 _ _ => rs0 = 0
  | .slli _ _ imm | .srli _ _ imm | .srai _ _ imm => imm.toNat < 32
  | .sll _ _ _ | .srl _ _ _ | .sra _ _ _ | .mult _ _ _ | .multu _ _ _ | .div _ _ _ | .divu _ _ _
  | .add _ _ _ | .addu _ _ _ | .sub _ _ _ | .subu _ _ _ | .and _ _ _ | .or _ _ _ | .xor _ _ _
  | .slt _ _ _ | .sgt _ _ _ | .sle _ _ _ | .sge _ _ _ | .seq _ _ _ | .sne _ _ _
  | .j _ | .jal _
  | .addi _ _ _ | .addui _ _ _ | .subi _ _ _ | .subui _ _ _ | .andi _ _ _ | .ori _ _ _ | .xori _ _ _
  | .slti _ _ _ | .sgti _ _ _ | .slei _ _ _ | .sgei _ _ _ | .seqi _ _ _ | .snei _ _ _
  | .lb _ _ _ | .lh _ _ _ | .lw _ _ _ | .lbu _ _ _ | .lhu _ _ _
  | .sb _ _ _ | .sh _ _ _ | .sw _ _ _ => true

/-- The parameters lie where rule R6 and the rules they come from give them a meaning: RAW_DISTANCE is in 0..3
(rule R234), a shifted immediate still fits the 32 bits it is extended to (rules R79, R181, R182), and a shift
amount takes at most the 16 bits an immediate has (rule R130). -/
def Config.wellFormed (c : Config) : Bool :=
  c.rawDistance ≤ 3 && c.jShift ≤ 6 && c.bShift ≤ 16 && c.shamtBits ≤ 16

end Sys2Proof
end

