-- ==== Sys2Proof/Decode.lean ====
section
/-! DEFINITION. The encoding of spec/30_encoding.md: the fields of a word (rules R71 to R74), the decoder (rule R75
over the tables of rules R76 to R78), the encoder over the same tables, and the mask and match of each row. -/

namespace Sys2Proof

/-- Why a word selects no instruction (rule R81). -/
inductive Illegal where
  /-- bits 31..26 hold one of the 34 unassigned values -/
  | unassignedOp (op : BitVec 6)
  /-- bits 31..26 are 0 and bits 10..0 hold one of the 2026 unassigned values -/
  | unassignedFunc (func : BitVec 11)
deriving DecidableEq, Repr

/-- `op`, bits 31..26 -/
def opField (w : Word) : BitVec 6 := w.extractLsb' 26 6

/-- `rs0`, bits 25..21 -/
def rs0Field (w : Word) : RegNum := w.extractLsb' 21 5

/-- `rs1`, bits 20..16 -/
def rs1Field (w : Word) : RegNum := w.extractLsb' 16 5

/-- `rd`, bits 15..11 -/
def rdField (w : Word) : RegNum := w.extractLsb' 11 5

/-- `func`, bits 10..0 -/
def funcField (w : Word) : BitVec 11 := w.extractLsb' 0 11

/-- `const` of the RI and B formats, bits 15..0 -/
def immField (w : Word) : Half := w.extractLsb' 0 16

/-- `const` of the J format, bits 25..0 -/
def offsetField (w : Word) : BitVec 26 := w.extractLsb' 0 26

/-- The rows of rule R76: what `func` selects when `op` is 0. -/
def decodeFunc (func : BitVec 11) (rs0 rs1 rd : RegNum) : Except Illegal Instr :=
  match func with
  | 0x000#11 => .ok (.sll rs0 rs1 rd)
  | 0x002#11 => .ok (.srl rs0 rs1 rd)
  | 0x003#11 => .ok (.sra rs0 rs1 rd)
  | 0x008#11 => .ok (.jr rs0 rs1 rd)
  | 0x009#11 => .ok (.jalr rs0 rs1 rd)
  | 0x018#11 => .ok (.mult rs0 rs1 rd)
  | 0x019#11 => .ok (.multu rs0 rs1 rd)
  | 0x01A#11 => .ok (.div rs0 rs1 rd)
  | 0x01B#11 => .ok (.divu rs0 rs1 rd)
  | 0x020#11 => .ok (.add rs0 rs1 rd)
  | 0x021#11 => .ok (.addu rs0 rs1 rd)
  | 0x022#11 => .ok (.sub rs0 rs1 rd)
  | 0x023#11 => .ok (.subu rs0 rs1 rd)
  | 0x024#11 => .ok (.and rs0 rs1 rd)
  | 0x025#11 => .ok (.or rs0 rs1 rd)
  | 0x026#11 => .ok (.xor rs0 rs1 rd)
  | 0x02A#11 => .ok (.slt rs0 rs1 rd)
  | 0x02B#11 => .ok (.sgt rs0 rs1 rd)
  | 0x02C#11 => .ok (.sle rs0 rs1 rd)
  | 0x02D#11 => .ok (.sge rs0 rs1 rd)
  | 0x02E#11 => .ok (.seq rs0 rs1 rd)
  | 0x02F#11 => .ok (.sne rs0 rs1 rd)
  | _ => .error (.unassignedFunc func)

/-- Decoding (rule R75): `op` selects the table, and in the RI, B and J formats the instruction (rules R77, R78). -/
def decode (w : Word) : Except Illegal Instr :=
  match opField w with
  | 0x00#6 => decodeFunc (funcField w) (rs0Field w) (rs1Field w) (rdField w)
  | 0x02#6 => .ok (.j (offsetField w))
  | 0x03#6 => .ok (.jal (offsetField w))
  | 0x04#6 => .ok (.beqz (rs0Field w) (rs1Field w) (immField w))
  | 0x05#6 => .ok (.bnez (rs0Field w) (rs1Field w) (immField w))
  | 0x08#6 => .ok (.addi (rs0Field w) (rs1Field w) (immField w))
  | 0x09#6 => .ok (.addui (rs0Field w) (rs1Field w) (immField w))
  | 0x0A#6 => .ok (.subi (rs0Field w) (rs1Field w) (immField w))
  | 0x0B#6 => .ok (.subui (rs0Field w) (rs1Field w) (immField w))
  | 0x0C#6 => .ok (.andi (rs0Field w) (rs1Field w) (immField w))
  | 0x0D#6 => .ok (.ori (rs0Field w) (rs1Field w) (immField w))
  | 0x0E#6 => .ok (.xori (rs0Field w) (rs1Field w) (immField w))
  | 0x0F#6 => .ok (.lhi (rs0Field w) (rs1Field w) (immField w))
  | 0x10#6 => .ok (.slli (rs0Field w) (rs1Field w) (immField w))
  | 0x11#6 => .ok (.srli (rs0Field w) (rs1Field w) (immField w))
  | 0x12#6 => .ok (.srai (rs0Field w) (rs1Field w) (immField w))
  | 0x1A#6 => .ok (.slti (rs0Field w) (rs1Field w) (immField w))
  | 0x1B#6 => .ok (.sgti (rs0Field w) (rs1Field w) (immField w))
  | 0x1C#6 => .ok (.slei (rs0Field w) (rs1Field w) (immField w))
  | 0x1D#6 => .ok (.sgei (rs0Field w) (rs1Field w) (immField w))
  | 0x1E#6 => .ok (.seqi (rs0Field w) (rs1Field w) (immField w))
  | 0x1F#6 => .ok (.snei (rs0Field w) (rs1Field w) (immField w))
  | 0x20#6 => .ok (.lb (rs0Field w) (rs1Field w) (immField w))
  | 0x21#6 => .ok (.lh (rs0Field w) (rs1Field w) (immField w))
  | 0x23#6 => .ok (.lw (rs0Field w) (rs1Field w) (immField w))
  | 0x24#6 => .ok (.lbu (rs0Field w) (rs1Field w) (immField w))
  | 0x25#6 => .ok (.lhu (rs0Field w) (rs1Field w) (immField w))
  | 0x28#6 => .ok (.sb (rs0Field w) (rs1Field w) (immField w))
  | 0x29#6 => .ok (.sh (rs0Field w) (rs1Field w) (immField w))
  | 0x2B#6 => .ok (.sw (rs0Field w) (rs1Field w) (immField w))
  | _ => .error (.unassignedOp (opField w))

/-- The instruction the decoder reads from an instruction whose bits are `w`, `nbits` of them given (the fixed name
the host asks with).  Every instruction is one 32-bit word (rule R70), and the instruction port delivers it whole
(rule R43), so no byte order is involved. -/
def decodeTableWord (nbits w : Nat) : Option Instr :=
  match decode (BitVec.ofNat 32 (w % 2 ^ nbits)) with
  | .ok i => some i
  | .error _ => none

/-- A word of the RR format (rule R71). -/
def rrWord (func : BitVec 11) (rs0 rs1 rd : RegNum) : Word := 0#6 ++ rs0 ++ rs1 ++ rd ++ func

/-- A word of the RI or B format (rules R72, R73). -/
def riWord (op : BitVec 6) (rs0 rs1 : RegNum) (imm : Half) : Word := op ++ rs0 ++ rs1 ++ imm

/-- A word of the J format (rule R74). -/
def jWord (op : BitVec 6) (offset : BitVec 26) : Word := op ++ offset

/-- The word of an instruction, from the tables of rules R76 to R78. -/
def encode : Instr → Word
  | .sll rs0 rs1 rd => rrWord 0x000 rs0 rs1 rd
  | .srl rs0 rs1 rd => rrWord 0x002 rs0 rs1 rd
  | .sra rs0 rs1 rd => rrWord 0x003 rs0 rs1 rd
  | .jr rs0 rs1 rd => rrWord 0x008 rs0 rs1 rd
  | .jalr rs0 rs1 rd => rrWord 0x009 rs0 rs1 rd
  | .mult rs0 rs1 rd => rrWord 0x018 rs0 rs1 rd
  | .multu rs0 rs1 rd => rrWord 0x019 rs0 rs1 rd
  | .div rs0 rs1 rd => rrWord 0x01A rs0 rs1 rd
  | .divu rs0 rs1 rd => rrWord 0x01B rs0 rs1 rd
  | .add rs0 rs1 rd => rrWord 0x020 rs0 rs1 rd
  | .addu rs0 rs1 rd => rrWord 0x021 rs0 rs1 rd
  | .sub rs0 rs1 rd => rrWord 0x022 rs0 rs1 rd
  | .subu rs0 rs1 rd => rrWord 0x023 rs0 rs1 rd
  | .and rs0 rs1 rd => rrWord 0x024 rs0 rs1 rd
  | .or rs0 rs1 rd => rrWord 0x025 rs0 rs1 rd
  | .xor rs0 rs1 rd => rrWord 0x026 rs0 rs1 rd
  | .slt rs0 rs1 rd => rrWord 0x02A rs0 rs1 rd
  | .sgt rs0 rs1 rd => rrWord 0x02B rs0 rs1 rd
  | .sle rs0 rs1 rd => rrWord 0x02C rs0 rs1 rd
  | .sge rs0 rs1 rd => rrWord 0x02D rs0 rs1 rd
  | .seq rs0 rs1 rd => rrWord 0x02E rs0 rs1 rd
  | .sne rs0 rs1 rd => rrWord 0x02F rs0 rs1 rd
  | .j offset => jWord 0x02 offset
  | .jal offset => jWord 0x03 offset
  | .beqz rs0 rs1 imm => riWord 0x04 rs0 rs1 imm
  | .bnez rs0 rs1 imm => riWord 0x05 rs0 rs1 imm
  | .addi rs0 rs1 imm => riWord 0x08 rs0 rs1 imm
  | .addui rs0 rs1 imm => riWord 0x09 rs0 rs1 imm
  | .subi rs0 rs1 imm => riWord 0x0A rs0 rs1 imm
  | .subui rs0 rs1 imm => riWord 0x0B rs0 rs1 imm
  | .andi rs0 rs1 imm => riWord 0x0C rs0 rs1 imm
  | .ori rs0 rs1 imm => riWord 0x0D rs0 rs1 imm
  | .xori rs0 rs1 imm => riWord 0x0E rs0 rs1 imm
  | .lhi rs0 rs1 imm => riWord 0x0F rs0 rs1 imm
  | .slli rs0 rs1 imm => riWord 0x10 rs0 rs1 imm
  | .srli rs0 rs1 imm => riWord 0x11 rs0 rs1 imm
  | .srai rs0 rs1 imm => riWord 0x12 rs0 rs1 imm
  | .slti rs0 rs1 imm => riWord 0x1A rs0 rs1 imm
  | .sgti rs0 rs1 imm => riWord 0x1B rs0 rs1 imm
  | .slei rs0 rs1 imm => riWord 0x1C rs0 rs1 imm
  | .sgei rs0 rs1 imm => riWord 0x1D rs0 rs1 imm
  | .seqi rs0 rs1 imm => riWord 0x1E rs0 rs1 imm
  | .snei rs0 rs1 imm => riWord 0x1F rs0 rs1 imm
  | .lb rs0 rs1 imm => riWord 0x20 rs0 rs1 imm
  | .lh rs0 rs1 imm => riWord 0x21 rs0 rs1 imm
  | .lw rs0 rs1 imm => riWord 0x23 rs0 rs1 imm
  | .lbu rs0 rs1 imm => riWord 0x24 rs0 rs1 imm
  | .lhu rs0 rs1 imm => riWord 0x25 rs0 rs1 imm
  | .sb rs0 rs1 imm => riWord 0x28 rs0 rs1 imm
  | .sh rs0 rs1 imm => riWord 0x29 rs0 rs1 imm
  | .sw rs0 rs1 imm => riWord 0x2B rs0 rs1 imm

/-- The mask of an instruction's row: bits 31..26 and 10..0 in the RR format (rule R76), bits 31..26 in the others
(rules R77, R78). -/
def maskOf : Instr → Word
  | .sll _ _ _ | .srl _ _ _ | .sra _ _ _ | .jr _ _ _ | .jalr _ _ _ | .mult _ _ _ | .multu _ _ _ | .div _ _ _
  | .divu _ _ _ | .add _ _ _ | .addu _ _ _ | .sub _ _ _ | .subu _ _ _ | .and _ _ _ | .or _ _ _ | .xor _ _ _
  | .slt _ _ _ | .sgt _ _ _ | .sle _ _ _ | .sge _ _ _ | .seq _ _ _ | .sne _ _ _ => 0xFC0007FF
  | .j _ | .jal _
  | .beqz _ _ _ | .bnez _ _ _ | .addi _ _ _ | .addui _ _ _ | .subi _ _ _ | .subui _ _ _ | .andi _ _ _ | .ori _ _ _
  | .xori _ _ _ | .lhi _ _ _ | .slli _ _ _ | .srli _ _ _ | .srai _ _ _ | .slti _ _ _ | .sgti _ _ _ | .slei _ _ _
  | .sgei _ _ _ | .seqi _ _ _ | .snei _ _ _ | .lb _ _ _ | .lh _ _ _ | .lw _ _ _ | .lbu _ _ _ | .lhu _ _ _
  | .sb _ _ _ | .sh _ _ _ | .sw _ _ _ => 0xFC000000

/-- The match of an instruction's row, the column "match" of rules R76 to R78. -/
def matchOf : Instr → Word
  | .sll _ _ _ => 0x00000000
  | .srl _ _ _ => 0x00000002
  | .sra _ _ _ => 0x00000003
  | .jr _ _ _ => 0x00000008
  | .jalr _ _ _ => 0x00000009
  | .mult _ _ _ => 0x00000018
  | .multu _ _ _ => 0x00000019
  | .div _ _ _ => 0x0000001A
  | .divu _ _ _ => 0x0000001B
  | .add _ _ _ => 0x00000020
  | .addu _ _ _ => 0x00000021
  | .sub _ _ _ => 0x00000022
  | .subu _ _ _ => 0x00000023
  | .and _ _ _ => 0x00000024
  | .or _ _ _ => 0x00000025
  | .xor _ _ _ => 0x00000026
  | .slt _ _ _ => 0x0000002A
  | .sgt _ _ _ => 0x0000002B
  | .sle _ _ _ => 0x0000002C
  | .sge _ _ _ => 0x0000002D
  | .seq _ _ _ => 0x0000002E
  | .sne _ _ _ => 0x0000002F
  | .beqz _ _ _ => 0x10000000
  | .bnez _ _ _ => 0x14000000
  | .addi _ _ _ => 0x20000000
  | .addui _ _ _ => 0x24000000
  | .subi _ _ _ => 0x28000000
  | .subui _ _ _ => 0x2C000000
  | .andi _ _ _ => 0x30000000
  | .ori _ _ _ => 0x34000000
  | .xori _ _ _ => 0x38000000
  | .lhi _ _ _ => 0x3C000000
  | .slli _ _ _ => 0x40000000
  | .srli _ _ _ => 0x44000000
  | .srai _ _ _ => 0x48000000
  | .slti _ _ _ => 0x68000000
  | .sgti _ _ _ => 0x6C000000
  | .slei _ _ _ => 0x70000000
  | .sgei _ _ _ => 0x74000000
  | .seqi _ _ _ => 0x78000000
  | .snei _ _ _ => 0x7C000000
  | .lb _ _ _ => 0x80000000
  | .lh _ _ _ => 0x84000000
  | .lw _ _ _ => 0x8C000000
  | .lbu _ _ _ => 0x90000000
  | .lhu _ _ _ => 0x94000000
  | .sb _ _ _ => 0xA0000000
  | .sh _ _ _ => 0xA4000000
  | .sw _ _ _ => 0xAC000000
  | .j _ => 0x08000000
  | .jal _ => 0x0C000000

end Sys2Proof
end

