-- ==== Sys2Proof/Machine/State.lean ====
section
/-! DEFINITION. The state of the machine as plain data (spec/10_state.md rule R36), the reasons a step stops
(spec/00_scope.md rule R9), and the state after reset (spec/10_state.md rule R34). -/

namespace Sys2Proof.Machine

/-- The data memory: the bytes written so far, as (address, byte) pairs. -/
abbrev Memory := List Host.Cell

/-- The instruction memory: the words the platform placed, as (address, word) pairs; the port delivers whole words
(spec/20_memory.md rule R43). -/
abbrev InstrMemory := List (Nat × Word)

/-- The canonical form of the data memory: addresses strictly rising, each in the 32-bit space (rule R40).  An
unlisted address has no known value (rule R231), and every listed one has, so no entry equals what an unlisted
address reads as. -/
abbrev Memory.wf (m : Memory) : Prop :=
  m.Pairwise (fun p q => p.1 < q.1) ∧ ∀ p ∈ m, p.1 < 2 ^ 32

/-- The canonical form of the instruction memory: addresses strictly rising, each a multiple of 4 in the 32-bit
space (rule R36: defined at multiples of 4). -/
abbrev InstrMemory.wf (m : InstrMemory) : Prop :=
  m.Pairwise (fun p q => p.1 < q.1) ∧ ∀ p ∈ m, p.1 < 2 ^ 32 ∧ p.1 % 4 = 0

/-- A range of data addresses. -/
structure Region where
  base : Nat
  size : Nat
deriving DecidableEq, Repr

/-- The state.  The first five fields are the machine's own (rules R20, R23, R27, R24, R32); the next four are the
parameters and the input that rule R36 gives the step; the last two are the model's. -/
structure State where
  /-- x[0] .. x[31], the resource GPR (rule R20) -/
  gpr : Vector Word 32
  /-- the program counter PC (rule R23) -/
  pc : Word
  /-- the instruction register IR (rule R27) -/
  ir : Word
  /-- the pending branch (rule R24) -/
  pend : Option Word
  /-- the data memory (rules R32, R40) -/
  dmem : Memory
  /-- the instruction memory (rules R31, R43, R52), which no step changes -/
  imem : InstrMemory
  /-- the data addresses the platform does not acknowledge (rules R45, R47), which no step changes -/
  holes : List Region
  /-- the level of the input pin Reset (rules R35, R202), which no step changes -/
  resetPin : Bool
  /-- the open parameters (rule R6), which no step changes -/
  cfg : Config
  /-- the MODEL's: how many draws (rules R9, R114) have been made -/
  draws : Nat
  /-- the MODEL's: the destinations of the last instructions, the latest first, at most three (rule R234) -/
  recent : List (Option RegNum)
deriving DecidableEq, Repr

/-- The model's faults: situations to which the source gives no meaning (rule R9).  A fault leaves no state. -/
inductive Fault where
  /-- a fetched word selects no instruction (rule R81, decision D18); raised by the fetch; safe -/
  | illegalEncoding
  /-- a fetch from an address that is not a multiple of 4 (rule R43, decision D9); raised by the fetch; safe -/
  | misalignedFetch
  /-- a halfword access at an odd address or a word access at no multiple of 4 (rule R42, decision D9); raised by
  LH, LHU, LW, SH, SW; safe -/
  | misalignedData
  /-- a control transfer in the delay slot of a taken one (rule R189, decision D21); raised by BEQZ, BNEZ, J, JAL,
  JR, JALR; safe -/
  | controlInDelaySlot
  /-- a value other than 0 written to register 0 under R0_POLICY = refuse (rule R21, decision D2); raised by every
  instruction that writes a register; safe -/
  | r0Write
  /-- a register read within RAW_DISTANCE instructions of its writer (rule R234, decision D22); raised by the step,
  never under the default RAW_DISTANCE = 0; safe -/
  | rawHazard
deriving DecidableEq, Repr

/-- Situations with no step (spec/93_implementation_defined.md U9, U20), and an instruction without a meaning. -/
inductive Refusal where
  /-- an instruction of the table this model gives no meaning yet; safe -/
  | notModelled (mnemonic : String)
  /-- a load or store at an address the platform does not back: the request is never acknowledged and the step never
  happens (rules R45, R47); raised by the loads and stores; safe -/
  | neverAcknowledged
  /-- a fetch from an address at which the platform placed no instruction word (U20: `imem` is partial, stuck);
  raised by the fetch; safe -/
  | noInstructionWord
deriving DecidableEq, Repr

/-- The state right after reset (rules R34, R203): PC, IR and GPR at RESET_PC, RESET_IR and GPR_RESET, no branch in
flight, nothing written to either memory, the Reset pin released, the default parameters. -/
def State.reset : State :=
  { gpr := Vector.replicate 32 Config.default.gprReset
    pc := Config.default.resetPc
    ir := Config.default.resetIr
    pend := none
    dmem := []
    imem := []
    holes := []
    resetPin := false
    cfg := Config.default
    draws := 0
    recent := [] }

end Sys2Proof.Machine
end

