-- ==== Sys2Proof/Machine/Ops.lean ====
section
/-! DEFINITION. The named operations every meaning is written with: sequencing outcomes, sparse memories, registers
(spec/10_state.md), data memory (spec/20_memory.md), the program counter and the pending branch (rules R24, R25),
and taking the reset interrupt (spec/60_exceptions.md rule R203). -/

namespace Sys2Proof.Machine

/-- What a step or a part of one answers. -/
abbrev Result (α : Type) := Host.Outcome α Fault Refusal

/-- Go on with the next state, or stop as before. -/
def andThen {α β : Type} (o : Result α) (f : α → Result β) : Result β :=
  match o with
  | .next a => f a
  | .fault r => .fault r
  | .refused r => .refused r

/-! ### Sparse memories -/

/-- What a list of cells holds at an address. -/
def cellRead {β : Type} (k : Nat) : List (Nat × β) → Option β
  | [] => none
  | p :: rest => if p.1 = k then some p.2 else cellRead k rest

/-- Write one cell, keeping the addresses in rising order. -/
def cellWrite {β : Type} (k : Nat) (v : β) : List (Nat × β) → List (Nat × β)
  | [] => [(k, v)]
  | p :: rest =>
    if k < p.1 then (k, v) :: p :: rest
    else if k = p.1 then (k, v) :: rest
    else p :: cellWrite k v rest

/-! ### General registers (rules R20, R21) -/

/-- `x[r]`: register 0 reads 0 under R0_POLICY = hardwired. -/
def readReg (s : State) (r : RegNum) : Word :=
  if r = 0 ∧ s.cfg.r0Policy = .hardwired then 0 else s.gpr[r.toNat]'r.isLt

/-- Put a word into the register file. -/
def putReg (s : State) (r : RegNum) (v : Word) : State :=
  { s with gpr := s.gpr.set r.toNat v r.isLt }

/-- `x[r] <- v`, under the R0_POLICY of the machine (rule R21). -/
def writeReg (s : State) (r : RegNum) (v : Word) : Result State :=
  if r = 0 then
    match s.cfg.r0Policy with
    | .refuse => if v = 0 then .next (putReg s r v) else .fault .r0Write
    | .ordinary => .next (putReg s r v)
    | .hardwired => .next s
  else .next (putReg s r v)

/-! ### Program counter and pending branch (rules R24, R25, R26) -/

/-- The address of the instruction after this one: the pending target in a delay slot, else `pc + 4`. -/
def nextPc (s : State) : Word :=
  match s.pend with
  | some t => t
  | none => s.pc + 4

/-- Steps 4 and 6 of rule R25 for an instruction that is no taken control transfer. -/
def advance (s : State) : State :=
  { s with pc := nextPc s, pend := none }

/-- Steps 4, 5 and 6 of rule R25 for a taken control transfer to `t`: it takes effect after the next instruction. -/
def transferTo (s : State) (t : Word) : State :=
  { s with pc := nextPc s, pend := some t }

/-- A control transfer in a delay slot is `fault(ControlInDelaySlot)`, before anything else it does (rules R189,
R205). -/
def outsideSlot (s : State) (f : Result State) : Result State :=
  if s.pend.isSome then .fault .controlInDelaySlot else f

/-- Write the destination and advance: how every instruction ends that computes a register. -/
def finishWith (s : State) (r : RegNum) (v : Word) : Result State :=
  andThen (writeReg s r v) fun t => .next (advance t)

/-! ### Data memory (rules R40 to R42, R45, R47) -/

/-- One byte of data memory; a byte nothing has written is a free value (rule R231). -/
def readByte (s : State) (a : Word) : Byte :=
  (cellRead a.toNat s.dmem).getD (Config.unwrittenByte a.toNat)

/-- Two bytes, the one at the lower address first, as a halfword (rule R41). -/
def joinHalf (e : Endian) (b0 b1 : Byte) : Half :=
  match e with
  | .big => b0 ++ b1
  | .little => b1 ++ b0

/-- Four bytes, the one at the lowest address first, as a word (rule R41). -/
def joinWord (e : Endian) (b0 b1 b2 b3 : Byte) : Word :=
  match e with
  | .big => b0 ++ b1 ++ b2 ++ b3
  | .little => b3 ++ b2 ++ b1 ++ b0

/-- `MemRead(a, 2)` (rule R41). -/
def readHalf (s : State) (a : Word) : Half :=
  joinHalf s.cfg.endian (readByte s a) (readByte s (a + 1))

/-- `MemRead(a, 4)` (rule R41). -/
def readWord (s : State) (a : Word) : Word :=
  joinWord s.cfg.endian (readByte s a) (readByte s (a + 1)) (readByte s (a + 2)) (readByte s (a + 3))

/-- The bytes of a halfword, the one for the lower address first (rule R41). -/
def splitHalf (e : Endian) (v : Half) : List Byte :=
  match e with
  | .big => [v.extractLsb' 8 8, v.extractLsb' 0 8]
  | .little => [v.extractLsb' 0 8, v.extractLsb' 8 8]

/-- The bytes of a word, the one for the lowest address first (rule R41). -/
def splitWord (e : Endian) (v : Word) : List Byte :=
  match e with
  | .big => [v.extractLsb' 24 8, v.extractLsb' 16 8, v.extractLsb' 8 8, v.extractLsb' 0 8]
  | .little => [v.extractLsb' 0 8, v.extractLsb' 8 8, v.extractLsb' 16 8, v.extractLsb' 24 8]

/-- `MemWrite` of bytes from address `a` up, modulo 2^32 (rules R41, R55). -/
def storeBytes (m : Memory) (a : Word) : List Byte → Memory
  | [] => m
  | b :: bs => storeBytes (cellWrite a.toNat b m) (a + 1) bs

/-- An access of `n` bytes at `a` is aligned (rule R42). -/
def isAligned (a : Word) (n : Nat) : Bool := a.toNat % n = 0

/-- An address lies in a range the platform does not back. -/
def inHole (holes : List Region) (a : Word) : Bool :=
  holes.any fun r => r.base ≤ a.toNat && a.toNat < r.base + r.size

/-- The platform acknowledges an access of `n` bytes at `a`: it backs every byte of it (rule R47). -/
def acknowledged (s : State) (a : Word) (n : Nat) : Bool :=
  (List.range n).all fun k => !inHole s.holes (a + BitVec.ofNat 32 k)

/-- What stands before every data access: the alignment check first (rule R170), then the handshake (rule R45). -/
def checkAccess (s : State) (a : Word) (n : Nat) : Result Unit :=
  if isAligned a n then
    if acknowledged s a n then .next () else .refused .neverAcknowledged
  else .fault .misalignedData

/-- A load of `n` bytes at `a` into register `r`: the check, the access, the register write (rule R170). -/
def loadInto (s : State) (a : Word) (n : Nat) (r : RegNum) (value : Word) : Result State :=
  andThen (checkAccess s a n) fun _ => finishWith s r value

/-- A store of bytes at `a`: the check, then the access (rule R170). -/
def storeAt (s : State) (a : Word) (bs : List Byte) : Result State :=
  andThen (checkAccess s a bs.length) fun _ => .next (advance { s with dmem := storeBytes s.dmem a bs })

/-! ### Free values (rules R9, R114) -/

/-- Make one draw: the counter goes on, so that the next draw is another free value. -/
def afterDraw (s : State) : State := { s with draws := s.draws + 1 }

/-! ### Taking the reset interrupt (rules R202, R203, R206)

The one exception of the hardware.  It saves nothing and there is no return from it (rules R206, R207). -/

/-- Reset processing (rule R203): PC, IR and every general register are reset, a pending transfer is dropped, and
both memories keep their content (rule R231).  No instruction before the reset has an effect after it, so no
register counts as just written. -/
def takeReset (s : State) : State :=
  { s with
    gpr := Vector.replicate 32 s.cfg.gprReset
    pc := s.cfg.resetPc
    ir := s.cfg.resetIr
    pend := none
    recent := [] }

end Sys2Proof.Machine
end

