-- ==== Sys2Proof/Machine/Operands.lean ====
section
/-! DEFINITION. Every operand form of the spec: the immediates of spec/30_encoding.md rule R79, the shift amount of
rule R130, the effective address of rule R160, the targets of rules R181 and R182, the link register and value of
rules R186 and R188, and the registers an instruction reads and writes (spec/10_state.md rule R22). -/

namespace Sys2Proof.Machine

/-- `sext_32` of an immediate (rule R8). -/
def sext {n : Nat} (v : BitVec n) : Word := v.signExtend 32

/-- `zext_32` of an immediate (rule R8). -/
def zext {n : Nat} (v : BitVec n) : Word := v.setWidth 32

/-- The immediate of ADDUI, SUBUI, ANDI, ORI, XORI: zero-extended under UIMM_ZEXT (rules R79, R126). -/
def unsignedImm (c : Config) (imm : Half) : Word := if c.uimmZext then zext imm else sext imm

/-- The operand of LHI: the immediate in bits 31..16, zeros below (rule R161). -/
def highImm (imm : Half) : Word := imm ++ 0#16

/-- The shift amount: the low SHAMT_BITS bits of its operand (rule R130). -/
def shiftAmount {n : Nat} (c : Config) (v : BitVec n) : Nat := v.toNat % 2 ^ c.shamtBits

/-- The effective address: base plus signed displacement (rule R160). -/
def effectiveAddress (s : State) (rs0 : RegNum) (imm : Half) : Word := readReg s rs0 + sext imm

/-- The target of BEQZ and BNEZ (rule R181).  The immediate shifted left by B_SHIFT and then sign-extended is the
immediate sign-extended and then shifted. -/
def branchTarget (s : State) (imm : Half) : Word := s.pc + s.cfg.branchBase + sext imm <<< s.cfg.bShift

/-- The target of J and JAL (rule R182): the 26-bit field with J_SHIFT zeros appended, sign-extended. -/
def jumpTarget (s : State) (offset : BitVec 26) : Word := s.pc + s.cfg.branchBase + sext offset <<< s.cfg.jShift

/-- The return address of JAL and JALR (rule R186). -/
def linkValue (s : State) : Word := s.pc + s.cfg.linkOffset

/-- The register JALR links to (rule R188). -/
def jalrLink (c : Config) (rd : RegNum) : RegNum :=
  match c.linkRegJalr with
  | .reg r => r
  | .rdField => rd

/-- The registers an instruction reads, column "read" of rule R22. -/
def sources : Instr → List RegNum
  | .sll rs0 rs1 _ | .srl rs0 rs1 _ | .sra rs0 rs1 _ | .mult rs0 rs1 _ | .multu rs0 rs1 _ | .div rs0 rs1 _
  | .divu rs0 rs1 _ | .add rs0 rs1 _ | .addu rs0 rs1 _ | .sub rs0 rs1 _ | .subu rs0 rs1 _ | .and rs0 rs1 _
  | .or rs0 rs1 _ | .xor rs0 rs1 _ | .slt rs0 rs1 _ | .sgt rs0 rs1 _ | .sle rs0 rs1 _ | .sge rs0 rs1 _
  | .seq rs0 rs1 _ | .sne rs0 rs1 _ => [rs0, rs1]
  | .addi rs0 _ _ | .addui rs0 _ _ | .subi rs0 _ _ | .subui rs0 _ _ | .andi rs0 _ _ | .ori rs0 _ _
  | .xori rs0 _ _ | .slli rs0 _ _ | .srli rs0 _ _ | .srai rs0 _ _ | .slti rs0 _ _ | .sgti rs0 _ _
  | .slei rs0 _ _ | .sgei rs0 _ _ | .seqi rs0 _ _ | .snei rs0 _ _ => [rs0]
  | .lhi _ _ _ => []
  | .lb rs0 _ _ | .lbu rs0 _ _ | .lh rs0 _ _ | .lhu rs0 _ _ | .lw rs0 _ _ => [rs0]
  | .sb rs0 rs1 _ | .sh rs0 rs1 _ | .sw rs0 rs1 _ => [rs0, rs1]
  | .beqz rs0 _ _ | .bnez rs0 _ _ => [rs0]
  | .j _ | .jal _ => []
  | .jr rs0 _ _ | .jalr rs0 _ _ => [rs0]

/-- The register an instruction writes, column "write" of rule R22. -/
def destination (c : Config) : Instr → Option RegNum
  | .sll _ _ rd | .srl _ _ rd | .sra _ _ rd | .mult _ _ rd | .multu _ _ rd | .div _ _ rd | .divu _ _ rd
  | .add _ _ rd | .addu _ _ rd | .sub _ _ rd | .subu _ _ rd | .and _ _ rd | .or _ _ rd | .xor _ _ rd
  | .slt _ _ rd | .sgt _ _ rd | .sle _ _ rd | .sge _ _ rd | .seq _ _ rd | .sne _ _ rd => some rd
  | .addi _ rs1 _ | .addui _ rs1 _ | .subi _ rs1 _ | .subui _ rs1 _ | .andi _ rs1 _ | .ori _ rs1 _
  | .xori _ rs1 _ | .slli _ rs1 _ | .srli _ rs1 _ | .srai _ rs1 _ | .slti _ rs1 _ | .sgti _ rs1 _
  | .slei _ rs1 _ | .sgei _ rs1 _ | .seqi _ rs1 _ | .snei _ rs1 _ => some rs1
  | .lhi _ rs1 _ => some rs1
  | .lb _ rs1 _ | .lbu _ rs1 _ | .lh _ rs1 _ | .lhu _ rs1 _ | .lw _ rs1 _ => some rs1
  | .sb _ _ _ | .sh _ _ _ | .sw _ _ _ => none
  | .beqz _ _ _ | .bnez _ _ _ => none
  | .j _ => none
  | .jal _ => some c.linkRegJal
  | .jr _ _ _ => none
  | .jalr _ _ rd => some (jalrLink c rd)

end Sys2Proof.Machine
end

