-- ==== Sys2Proof/Machine/Flags.lean ====
section
/-! DEFINITION. Conditions.  The hardware has no flags, no condition codes and no predicates (spec/10_state.md rule
R28): a condition is computed into a general register by a set instruction (spec/43_set.md rule R140) or tested
against zero by a branch (rules R183, R184), and nothing is kept. -/

namespace Sys2Proof.Machine

/-- What "set" writes: 1 when the condition holds, else 0 (rule R140). -/
def setWord (b : Bool) : Word := if b then 1 else 0

/-- The ordering conditions compare signed (rule R140). -/
def isLess (a b : Word) : Bool := a.toInt < b.toInt

/-- "greater" (rule R142). -/
def isGreater (a b : Word) : Bool := a.toInt > b.toInt

/-- "less or equal" (rule R143). -/
def isLessEqual (a b : Word) : Bool := a.toInt ≤ b.toInt

/-- "greater or equal" (rule R144). -/
def isGreaterEqual (a b : Word) : Bool := a.toInt ≥ b.toInt

/-- "equal" compares all 32 bits (rule R145). -/
def isEqual (a b : Word) : Bool := a = b

/-- The test of BEQZ and BNEZ: all 32 bits are 0 (rules R183, R184). -/
def isZero (a : Word) : Bool := a = 0

end Sys2Proof.Machine
end

