-- ==== Sys2Proof/Machine/Arithmetic.lean ====
section
/-! DEFINITION. The twelve arithmetic instructions, spec/40_arithmetic.md rules R102 to R114.  Nothing traps and no
flag is kept (rule R115). -/

namespace Sys2Proof.Machine

/-- The RR template (rules R100, R130, R140): both reads happen before the write (rule R22). -/
def binaryRR (f : Word → Word → Word) (rs0 rs1 rd : RegNum) (s : State) : Result State :=
  finishWith s rd (f (readReg s rs0) (readReg s rs1))

/-- The RI template (rule R101): `rs0` is read, `rs1` is written. -/
def binaryRI (f : Word → Word) (rs0 rs1 : RegNum) (s : State) : Result State :=
  finishWith s rs1 (f (readReg s rs0))

/-- The 32 bits of an exact product that MUL_RESULT selects (rules R110, R111). -/
def productPart (h : ProductHalf) (p : Int) : Word :=
  match h with
  | .low => BitVec.ofInt 32 p
  | .high => BitVec.ofInt 32 (p / 2 ^ 32)

/-- ADD (rule R102). -/
def execAdd (rs0 rs1 rd : RegNum) (s : State) : Result State := binaryRR (· + ·) rs0 rs1 rd s

/-- ADDU (rule R103). -/
def execAddu (rs0 rs1 rd : RegNum) (s : State) : Result State := binaryRR (· + ·) rs0 rs1 rd s

/-- ADDI (rule R104). -/
def execAddi (rs0 rs1 : RegNum) (imm : Half) (s : State) : Result State := binaryRI (· + sext imm) rs0 rs1 s

/-- ADDUI (rule R105). -/
def execAddui (rs0 rs1 : RegNum) (imm : Half) (s : State) : Result State :=
  binaryRI (· + unsignedImm s.cfg imm) rs0 rs1 s

/-- SUB (rule R106). -/
def execSub (rs0 rs1 rd : RegNum) (s : State) : Result State := binaryRR (· - ·) rs0 rs1 rd s

/-- SUBU (rule R107). -/
def execSubu (rs0 rs1 rd : RegNum) (s : State) : Result State := binaryRR (· - ·) rs0 rs1 rd s

/-- SUBI (rule R108). -/
def execSubi (rs0 rs1 : RegNum) (imm : Half) (s : State) : Result State := binaryRI (· - sext imm) rs0 rs1 s

/-- SUBUI (rule R109). -/
def execSubui (rs0 rs1 : RegNum) (imm : Half) (s : State) : Result State :=
  binaryRI (· - unsignedImm s.cfg imm) rs0 rs1 s

/-- MULT (rule R110): the exact signed product, of which MUL_RESULT selects 32 bits. -/
def execMult (rs0 rs1 rd : RegNum) (s : State) : Result State :=
  binaryRR (fun a b => productPart s.cfg.mulResult (a.toInt * b.toInt)) rs0 rs1 rd s

/-- MULTU (rule R111): the exact unsigned product, of which MUL_RESULT selects 32 bits. -/
def execMultu (rs0 rs1 rd : RegNum) (s : State) : Result State :=
  binaryRR (fun a b => productPart s.cfg.mulResult ((a.toNat : Int) * (b.toNat : Int))) rs0 rs1 rd s

/-- DIV (rule R112): the signed quotient rounded toward zero; a zero divisor and -2^31 / -1 are draws (rule R114). -/
def execDiv (rs0 rs1 rd : RegNum) (s : State) : Result State :=
  let a := (readReg s rs0).toInt
  let b := (readReg s rs1).toInt
  if b = 0 then finishWith (afterDraw s) rd (Config.divByZero s.draws)
  else if a = -2 ^ 31 ∧ b = -1 then finishWith (afterDraw s) rd (Config.divOverflow s.draws)
  else finishWith s rd (BitVec.ofInt 32 (Int.tdiv a b))

/-- DIVU (rule R113): the unsigned quotient rounded down; a zero divisor is a draw (rule R114). -/
def execDivu (rs0 rs1 rd : RegNum) (s : State) : Result State :=
  let a := (readReg s rs0).toNat
  let b := (readReg s rs1).toNat
  if b = 0 then finishWith (afterDraw s) rd (Config.divByZero s.draws)
  else finishWith s rd (BitVec.ofNat 32 (a / b))

end Sys2Proof.Machine
end

