-- ==== Sys2Proof/Machine/Control.lean ====
section
/-! DEFINITION. The six control transfers, spec/45_control.md rules R180 to R192.  All are delayed by one slot, none
annuls it (rule R180); a misaligned target completes here and faults at its fetch (rule R190). -/

namespace Sys2Proof.Machine

/-- BEQZ (rule R183): `rs1` is ignored (rule R80). -/
def execBeqz (rs0 _rs1 : RegNum) (imm : Half) (s : State) : Result State :=
  outsideSlot s
    (.next (if isZero (readReg s rs0) then transferTo s (branchTarget s imm) else advance s))

/-- BNEZ (rule R184): `rs1` is ignored (rule R80). -/
def execBnez (rs0 _rs1 : RegNum) (imm : Half) (s : State) : Result State :=
  outsideSlot s
    (.next (if isZero (readReg s rs0) then advance s else transferTo s (branchTarget s imm)))

/-- J (rule R185). -/
def execJ (offset : BitVec 26) (s : State) : Result State :=
  outsideSlot s (.next (transferTo s (jumpTarget s offset)))

/-- JAL (rule R186): the link is written when the JAL executes, before its slot. -/
def execJal (offset : BitVec 26) (s : State) : Result State :=
  outsideSlot s (andThen (writeReg s s.cfg.linkRegJal (linkValue s)) fun t =>
    .next (transferTo t (jumpTarget s offset)))

/-- JR (rule R187): `rs1` and `rd` are ignored (rule R80). -/
def execJr (rs0 _rs1 _rd : RegNum) (s : State) : Result State :=
  outsideSlot s (.next (transferTo s (readReg s rs0)))

/-- JALR (rule R188): the target is read before the link is written; `rd` counts only where LINK_REG_JALR is the
`rd` field. -/
def execJalr (rs0 _rs1 rd : RegNum) (s : State) : Result State :=
  outsideSlot s (andThen (writeReg s (jalrLink s.cfg rd) (linkValue s)) fun t =>
    .next (transferTo t (readReg s rs0)))

end Sys2Proof.Machine
end

