-- ==== Sys2Proof/Machine/LoadStore.lean ====
section
/-! DEFINITION. Load high, the five loads and the three stores, spec/44_load_store.md rules R160 to R170. -/

namespace Sys2Proof.Machine

/-- LHI (rule R161): `rs0` is ignored (rule R80) and memory is not accessed. -/
def execLhi (_rs0 rs1 : RegNum) (imm : Half) (s : State) : Result State := finishWith s rs1 (highImm imm)

/-- LB (rule R162). -/
def execLb (rs0 rs1 : RegNum) (imm : Half) (s : State) : Result State :=
  let ea := effectiveAddress s rs0 imm
  loadInto s ea 1 rs1 (sext (readByte s ea))

/-- LBU (rule R163). -/
def execLbu (rs0 rs1 : RegNum) (imm : Half) (s : State) : Result State :=
  let ea := effectiveAddress s rs0 imm
  loadInto s ea 1 rs1 (zext (readByte s ea))

/-- LH (rule R164). -/
def execLh (rs0 rs1 : RegNum) (imm : Half) (s : State) : Result State :=
  let ea := effectiveAddress s rs0 imm
  loadInto s ea 2 rs1 (sext (readHalf s ea))

/-- LHU (rule R165). -/
def execLhu (rs0 rs1 : RegNum) (imm : Half) (s : State) : Result State :=
  let ea := effectiveAddress s rs0 imm
  loadInto s ea 2 rs1 (zext (readHalf s ea))

/-- LW (rule R166). -/
def execLw (rs0 rs1 : RegNum) (imm : Half) (s : State) : Result State :=
  let ea := effectiveAddress s rs0 imm
  loadInto s ea 4 rs1 (readWord s ea)

/-- SB (rule R167): the least significant byte of `x[rs1]`. -/
def execSb (rs0 rs1 : RegNum) (imm : Half) (s : State) : Result State :=
  storeAt s (effectiveAddress s rs0 imm) [(readReg s rs1).extractLsb' 0 8]

/-- SH (rule R168): the low halfword of `x[rs1]`. -/
def execSh (rs0 rs1 : RegNum) (imm : Half) (s : State) : Result State :=
  storeAt s (effectiveAddress s rs0 imm) (splitHalf s.cfg.endian ((readReg s rs1).extractLsb' 0 16))

/-- SW (rule R169). -/
def execSw (rs0 rs1 : RegNum) (imm : Half) (s : State) : Result State :=
  storeAt s (effectiveAddress s rs0 imm) (splitWord s.cfg.endian (readReg s rs1))

end Sys2Proof.Machine
end

