-- ==== Sys2Proof/Machine/Logical.lean ====
section
/-! DEFINITION. The six logical instructions, spec/41_logical.md rules R120 to R126. -/

namespace Sys2Proof.Machine

/-- AND (rule R120). -/
def execAnd (rs0 rs1 rd : RegNum) (s : State) : Result State := binaryRR (· &&& ·) rs0 rs1 rd s

/-- ANDI (rule R121). -/
def execAndi (rs0 rs1 : RegNum) (imm : Half) (s : State) : Result State :=
  binaryRI (· &&& unsignedImm s.cfg imm) rs0 rs1 s

/-- OR (rule R122). -/
def execOr (rs0 rs1 rd : RegNum) (s : State) : Result State := binaryRR (· ||| ·) rs0 rs1 rd s

/-- ORI (rule R123). -/
def execOri (rs0 rs1 : RegNum) (imm : Half) (s : State) : Result State :=
  binaryRI (· ||| unsignedImm s.cfg imm) rs0 rs1 s

/-- XOR (rule R124). -/
def execXor (rs0 rs1 rd : RegNum) (s : State) : Result State := binaryRR (· ^^^ ·) rs0 rs1 rd s

/-- XORI (rule R125). -/
def execXori (rs0 rs1 : RegNum) (imm : Half) (s : State) : Result State :=
  binaryRI (· ^^^ unsignedImm s.cfg imm) rs0 rs1 s

end Sys2Proof.Machine
end

