-- ==== Sys2Proof/Machine/Set.lean ====
section
/-! DEFINITION. The twelve set instructions, spec/43_set.md rules R140 to R153. -/

namespace Sys2Proof.Machine

/-- SLT (rule R141). -/
def execSlt (rs0 rs1 rd : RegNum) (s : State) : Result State :=
  binaryRR (fun a b => setWord (isLess a b)) rs0 rs1 rd s

/-- SGT (rule R142). -/
def execSgt (rs0 rs1 rd : RegNum) (s : State) : Result State :=
  binaryRR (fun a b => setWord (isGreater a b)) rs0 rs1 rd s

/-- SLE (rule R143). -/
def execSle (rs0 rs1 rd : RegNum) (s : State) : Result State :=
  binaryRR (fun a b => setWord (isLessEqual a b)) rs0 rs1 rd s

/-- SGE (rule R144). -/
def execSge (rs0 rs1 rd : RegNum) (s : State) : Result State :=
  binaryRR (fun a b => setWord (isGreaterEqual a b)) rs0 rs1 rd s

/-- SEQ (rule R145). -/
def execSeq (rs0 rs1 rd : RegNum) (s : State) : Result State :=
  binaryRR (fun a b => setWord (isEqual a b)) rs0 rs1 rd s

/-- SNE (rule R146). -/
def execSne (rs0 rs1 rd : RegNum) (s : State) : Result State :=
  binaryRR (fun a b => setWord (!isEqual a b)) rs0 rs1 rd s

/-- SLTI (rule R147). -/
def execSlti (rs0 rs1 : RegNum) (imm : Half) (s : State) : Result State :=
  binaryRI (fun a => setWord (isLess a (sext imm))) rs0 rs1 s

/-- SGTI (rule R148). -/
def execSgti (rs0 rs1 : RegNum) (imm : Half) (s : State) : Result State :=
  binaryRI (fun a => setWord (isGreater a (sext imm))) rs0 rs1 s

/-- SLEI (rule R149). -/
def execSlei (rs0 rs1 : RegNum) (imm : Half) (s : State) : Result State :=
  binaryRI (fun a => setWord (isLessEqual a (sext imm))) rs0 rs1 s

/-- SGEI (rule R150). -/
def execSgei (rs0 rs1 : RegNum) (imm : Half) (s : State) : Result State :=
  binaryRI (fun a => setWord (isGreaterEqual a (sext imm))) rs0 rs1 s

/-- SEQI (rule R151). -/
def execSeqi (rs0 rs1 : RegNum) (imm : Half) (s : State) : Result State :=
  binaryRI (fun a => setWord (isEqual a (sext imm))) rs0 rs1 s

/-- SNEI (rule R152). -/
def execSnei (rs0 rs1 : RegNum) (imm : Half) (s : State) : Result State :=
  binaryRI (fun a => setWord (!isEqual a (sext imm))) rs0 rs1 s

end Sys2Proof.Machine
end

