-- ==== Sys2Proof/Machine/Shift.lean ====
section
/-! DEFINITION. The six shift instructions, spec/42_shift.md rules R130 to R136. -/

namespace Sys2Proof.Machine

/-- SLL (rule R131): zeros enter at bit 0. -/
def execSll (rs0 rs1 rd : RegNum) (s : State) : Result State :=
  binaryRR (fun a b => a <<< shiftAmount s.cfg b) rs0 rs1 rd s

/-- SRL (rule R132): zeros enter at bit 31. -/
def execSrl (rs0 rs1 rd : RegNum) (s : State) : Result State :=
  binaryRR (fun a b => a >>> shiftAmount s.cfg b) rs0 rs1 rd s

/-- SRA (rule R133): copies of bit 31 enter at bit 31. -/
def execSra (rs0 rs1 rd : RegNum) (s : State) : Result State :=
  binaryRR (fun a b => a.sshiftRight (shiftAmount s.cfg b)) rs0 rs1 rd s

/-- SLLI (rule R134). -/
def execSlli (rs0 rs1 : RegNum) (imm : Half) (s : State) : Result State :=
  binaryRI (fun a => a <<< shiftAmount s.cfg imm) rs0 rs1 s

/-- SRLI (rule R135). -/
def execSrli (rs0 rs1 : RegNum) (imm : Half) (s : State) : Result State :=
  binaryRI (fun a => a >>> shiftAmount s.cfg imm) rs0 rs1 s

/-- SRAI (rule R136). -/
def execSrai (rs0 rs1 : RegNum) (imm : Half) (s : State) : Result State :=
  binaryRI (fun a => a.sshiftRight (shiftAmount s.cfg imm)) rs0 rs1 s

end Sys2Proof.Machine
end

