-- ==== Sys2Proof/Machine/Dispatch.lean ====
section
/-! DEFINITION. One arm per instruction: step 5 of spec/10_state.md rule R25, with steps 4 and 6 in each meaning. -/

namespace Sys2Proof.Machine

def exec (i : Instr) (s : State) : Host.Outcome State Fault Refusal :=
  match i with
  | .sll rs0 rs1 rd => Sys2Proof.Machine.execSll rs0 rs1 rd s
  | .srl rs0 rs1 rd => Sys2Proof.Machine.execSrl rs0 rs1 rd s
  | .sra rs0 rs1 rd => Sys2Proof.Machine.execSra rs0 rs1 rd s
  | .jr rs0 rs1 rd => Sys2Proof.Machine.execJr rs0 rs1 rd s
  | .jalr rs0 rs1 rd => Sys2Proof.Machine.execJalr rs0 rs1 rd s
  | .mult rs0 rs1 rd => Sys2Proof.Machine.execMult rs0 rs1 rd s
  | .multu rs0 rs1 rd => Sys2Proof.Machine.execMultu rs0 rs1 rd s
  | .div rs0 rs1 rd => Sys2Proof.Machine.execDiv rs0 rs1 rd s
  | .divu rs0 rs1 rd => Sys2Proof.Machine.execDivu rs0 rs1 rd s
  | .add rs0 rs1 rd => Sys2Proof.Machine.execAdd rs0 rs1 rd s
  | .addu rs0 rs1 rd => Sys2Proof.Machine.execAddu rs0 rs1 rd s
  | .sub rs0 rs1 rd => Sys2Proof.Machine.execSub rs0 rs1 rd s
  | .subu rs0 rs1 rd => Sys2Proof.Machine.execSubu rs0 rs1 rd s
  | .and rs0 rs1 rd => Sys2Proof.Machine.execAnd rs0 rs1 rd s
  | .or rs0 rs1 rd => Sys2Proof.Machine.execOr rs0 rs1 rd s
  | .xor rs0 rs1 rd => Sys2Proof.Machine.execXor rs0 rs1 rd s
  | .slt rs0 rs1 rd => Sys2Proof.Machine.execSlt rs0 rs1 rd s
  | .sgt rs0 rs1 rd => Sys2Proof.Machine.execSgt rs0 rs1 rd s
  | .sle rs0 rs1 rd => Sys2Proof.Machine.execSle rs0 rs1 rd s
  | .sge rs0 rs1 rd => Sys2Proof.Machine.execSge rs0 rs1 rd s
  | .seq rs0 rs1 rd => Sys2Proof.Machine.execSeq rs0 rs1 rd s
  | .sne rs0 rs1 rd => Sys2Proof.Machine.execSne rs0 rs1 rd s
  | .j offset => Sys2Proof.Machine.execJ offset s
  | .jal offset => Sys2Proof.Machine.execJal offset s
  | .beqz rs0 rs1 imm => Sys2Proof.Machine.execBeqz rs0 rs1 imm s
  | .bnez rs0 rs1 imm => Sys2Proof.Machine.execBnez rs0 rs1 imm s
  | .addi rs0 rs1 imm => Sys2Proof.Machine.execAddi rs0 rs1 imm s
  | .addui rs0 rs1 imm => Sys2Proof.Machine.execAddui rs0 rs1 imm s
  | .subi rs0 rs1 imm => Sys2Proof.Machine.execSubi rs0 rs1 imm s
  | .subui rs0 rs1 imm => Sys2Proof.Machine.execSubui rs0 rs1 imm s
  | .andi rs0 rs1 imm => Sys2Proof.Machine.execAndi rs0 rs1 imm s
  | .ori rs0 rs1 imm => Sys2Proof.Machine.execOri rs0 rs1 imm s
  | .xori rs0 rs1 imm => Sys2Proof.Machine.execXori rs0 rs1 imm s
  | .lhi rs0 rs1 imm => Sys2Proof.Machine.execLhi rs0 rs1 imm s
  | .slli rs0 rs1 imm => Sys2Proof.Machine.execSlli rs0 rs1 imm s
  | .srli rs0 rs1 imm => Sys2Proof.Machine.execSrli rs0 rs1 imm s
  | .srai rs0 rs1 imm => Sys2Proof.Machine.execSrai rs0 rs1 imm s
  | .slti rs0 rs1 imm => Sys2Proof.Machine.execSlti rs0 rs1 imm s
  | .sgti rs0 rs1 imm => Sys2Proof.Machine.execSgti rs0 rs1 imm s
  | .slei rs0 rs1 imm => Sys2Proof.Machine.execSlei rs0 rs1 imm s
  | .sgei rs0 rs1 imm => Sys2Proof.Machine.execSgei rs0 rs1 imm s
  | .seqi rs0 rs1 imm => Sys2Proof.Machine.execSeqi rs0 rs1 imm s
  | .snei rs0 rs1 imm => Sys2Proof.Machine.execSnei rs0 rs1 imm s
  | .lb rs0 rs1 imm => Sys2Proof.Machine.execLb rs0 rs1 imm s
  | .lh rs0 rs1 imm => Sys2Proof.Machine.execLh rs0 rs1 imm s
  | .lw rs0 rs1 imm => Sys2Proof.Machine.execLw rs0 rs1 imm s
  | .lbu rs0 rs1 imm => Sys2Proof.Machine.execLbu rs0 rs1 imm s
  | .lhu rs0 rs1 imm => Sys2Proof.Machine.execLhu rs0 rs1 imm s
  | .sb rs0 rs1 imm => Sys2Proof.Machine.execSb rs0 rs1 imm s
  | .sh rs0 rs1 imm => Sys2Proof.Machine.execSh rs0 rs1 imm s
  | .sw rs0 rs1 imm => Sys2Proof.Machine.execSw rs0 rs1 imm s

end Sys2Proof.Machine
end

