-- ==== Sys2Proof/Machine/Fetch.lean ====
section
/-! DEFINITION. What stands around an instruction in one step: the fetch and decoding of spec/10_state.md rule R25
steps 1 to 3, the data hazard of spec/70_reset_and_hazards.md rule R234, and what an instruction leaves in the
instruction register (rule R27) and among the recent destinations. -/

namespace Sys2Proof.Machine

/-- Steps 1 to 3 of rule R25: the alignment check, the fetch, the decoding, in that order (rule R205). -/
def fetch (s : State) : Result (Word × Instr) :=
  if isAligned s.pc 4 then
    match cellRead s.pc.toNat s.imem with
    | none => .refused .noInstructionWord
    | some w =>
      match decode w with
      | .ok i => .next (w, i)
      | .error _ => .fault .illegalEncoding
  else .fault .misalignedFetch

/-- The instruction reads a register that one of the previous RAW_DISTANCE instructions wrote (rule R234). -/
def readsTooSoon (i : Instr) (s : State) : Bool :=
  (sources i).any fun r => (s.recent.take s.cfg.rawDistance).contains (some r)

/-- The destination that counts for a later hazard.  A write that left register 0 as it was does not count: a NOP
separates (rule R234), and a read of a register whose value does not change sees the same value at any time. -/
def hazardMark (i : Instr) (before after : State) : Option RegNum :=
  match destination before.cfg i with
  | some r => if r = 0 ∧ after.gpr[0] = before.gpr[0] then none else some r
  | none => none

/-- After the instruction `i` with word `w` took `before` to `after`: IR holds its word (rule R27), and its
destination is the latest. -/
def retire (w : Word) (i : Instr) (before after : State) : State :=
  { after with
    ir := w
    recent := (hazardMark i before after :: before.recent).take 3 }

/-- The end of a run, the default of the parameter HALT (spec/60_exceptions.md rule R216, decision D29): no branch is
pending, the word at `pc` is a J whose target is `pc`, and the word at `pc + 4` is the NOP 0.  A convention about
runs, which no step reads. -/
def atEnd (s : State) : Bool :=
  s.pend = none && cellRead (s.pc + 4).toNat s.imem = some 0 &&
    match (cellRead s.pc.toNat s.imem).map decode with
    | some (.ok (.j offset)) => jumpTarget s offset = s.pc
    | _ => false

end Sys2Proof.Machine
end

