-- ==== Sys2Proof/Machine/Ports.lean ====
section
/-! DEFINITION. The pins as functions of the state (spec/10_state.md rule R35, spec/60_exceptions.md rule R215), and
the moves of the host.  The code of `dataWm`, the byte lanes of `DataDB` and the timing of `DataReq` and `DataAck`
are in no source (spec/20_memory.md rules R45, R46). -/

namespace Sys2Proof.Machine

/-- The address on `instAB`: the instruction fetch of rule R215. -/
def instAB (s : State) : Word := s.pc

/-- One transaction of the data port (rule R44). -/
inductive DataAccess where
  /-- `n` bytes read at `ea` -/
  | load (ea : Word) (n : Nat)
  /-- bytes written from `ea` up, the one at the lowest address first -/
  | store (ea : Word) (bytes : List Byte)
deriving DecidableEq, Repr

/-- The data access an instruction makes: one for a load or a store, at the width of rule R40, and none otherwise
(rule R54). -/
def dataAccess (i : Instr) (s : State) : Option DataAccess :=
  match i with
  | .lb rs0 _ imm | .lbu rs0 _ imm => some (.load (effectiveAddress s rs0 imm) 1)
  | .lh rs0 _ imm | .lhu rs0 _ imm => some (.load (effectiveAddress s rs0 imm) 2)
  | .lw rs0 _ imm => some (.load (effectiveAddress s rs0 imm) 4)
  | .sb rs0 rs1 imm => some (.store (effectiveAddress s rs0 imm) [(readReg s rs1).extractLsb' 0 8])
  | .sh rs0 rs1 imm =>
    some (.store (effectiveAddress s rs0 imm) (splitHalf s.cfg.endian ((readReg s rs1).extractLsb' 0 16)))
  | .sw rs0 rs1 imm => some (.store (effectiveAddress s rs0 imm) (splitWord s.cfg.endian (readReg s rs1)))
  | .sll _ _ _ | .srl _ _ _ | .sra _ _ _ | .jr _ _ _ | .jalr _ _ _ | .mult _ _ _ | .multu _ _ _ | .div _ _ _
  | .divu _ _ _ | .add _ _ _ | .addu _ _ _ | .sub _ _ _ | .subu _ _ _ | .and _ _ _ | .or _ _ _ | .xor _ _ _
  | .slt _ _ _ | .sgt _ _ _ | .sle _ _ _ | .sge _ _ _ | .seq _ _ _ | .sne _ _ _ | .j _ | .jal _
  | .beqz _ _ _ | .bnez _ _ _ | .addi _ _ _ | .addui _ _ _ | .subi _ _ _ | .subui _ _ _ | .andi _ _ _
  | .ori _ _ _ | .xori _ _ _ | .lhi _ _ _ | .slli _ _ _ | .srli _ _ _ | .srai _ _ _ | .slti _ _ _
  | .sgti _ _ _ | .slei _ _ _ | .sgei _ _ _ | .seqi _ _ _ | .snei _ _ _ => none

/-- The host sets the level of the pin Reset (rule R202). -/
def setReset (s : State) (level : Bool) : State := { s with resetPin := level }

/-- The host places an instruction word (rule R232). -/
def placeInstr (s : State) (a w : Word) : State := { s with imem := cellWrite a.toNat w s.imem }

/-- Another bus master writes a byte of data memory between two accesses of the core (rule R215). -/
def busWrite (s : State) (a : Word) (b : Byte) : State := { s with dmem := cellWrite a.toNat b s.dmem }

end Sys2Proof.Machine
end

