-- ==== Sys2Proof/Machine/Step.lean ====
section
/-! DEFINITION. One step: the reset step while the pin Reset is 1 (spec/60_exceptions.md rules R202, R203), else one
instruction (spec/10_state.md rule R25). -/

namespace Sys2Proof.Machine

def step (s : State) : Host.Outcome State Fault Refusal :=
  if s.resetPin then .next (takeReset s)
  else
    andThen (fetch s) fun f =>
      if readsTooSoon f.2 s then .fault .rawHazard
      else andThen (exec f.2 s) fun t => .next (retire f.1 f.2 s t)

/-- The state with an instruction's word where the next step fetches it, and the pin Reset released so that the next
step is an instruction.  Stands for the platform placing a program (spec/70_reset_and_hazards.md rule R232). -/
def State.withFetchWord (s : State) (nbits w : Nat) : State :=
  setReset (placeInstr s s.pc (BitVec.ofNat 32 (w % 2 ^ nbits))) false

end Sys2Proof.Machine
end

