-- ==== Sys2Proof/Safety.lean ====
section
/-! DEFINITION. The terms the statements use: what an instruction's next state keeps and changes, said through the
model's reads of a register and of a byte, and the invariant of the machine. -/

namespace Sys2Proof.Machine

/-- The six control transfers (spec/45_control.md). -/
def isControl : Instr → Bool
  | .beqz _ _ _ | .bnez _ _ _ | .j _ | .jal _ | .jr _ _ _ | .jalr _ _ _ => true
  | .sll _ _ _ | .srl _ _ _ | .sra _ _ _ | .mult _ _ _ | .multu _ _ _ | .div _ _ _ | .divu _ _ _
  | .add _ _ _ | .addu _ _ _ | .sub _ _ _ | .subu _ _ _ | .and _ _ _ | .or _ _ _ | .xor _ _ _
  | .slt _ _ _ | .sgt _ _ _ | .sle _ _ _ | .sge _ _ _ | .seq _ _ _ | .sne _ _ _
  | .addi _ _ _ | .addui _ _ _ | .subi _ _ _ | .subui _ _ _ | .andi _ _ _ | .ori _ _ _ | .xori _ _ _
  | .lhi _ _ _ | .slli _ _ _ | .srli _ _ _ | .srai _ _ _ | .slti _ _ _ | .sgti _ _ _ | .slei _ _ _
  | .sgei _ _ _ | .seqi _ _ _ | .snei _ _ _ | .lb _ _ _ | .lh _ _ _ | .lw _ _ _ | .lbu _ _ _
  | .lhu _ _ _ | .sb _ _ _ | .sh _ _ _ | .sw _ _ _ => false

/-- Register `r` takes the word `v`: not a value other than 0 into register 0 under R0_POLICY = refuse (rule R21). -/
abbrev Accepts (s : State) (r : RegNum) (v : Word) : Prop :=
  ¬(r = 0 ∧ s.cfg.r0Policy = .refuse ∧ v ≠ 0)

/-- What `x[r]` reads after `v` was written to it: 0 for register 0 under R0_POLICY = hardwired (rule R21). -/
def landed (s : State) (r : RegNum) (v : Word) : Word :=
  if r = 0 ∧ s.cfg.r0Policy = .hardwired then 0 else v

/-- Every register reads as before. -/
def SameRegisters (s t : State) : Prop := ∀ q, readReg t q = readReg s q

/-- Register `r` reads as `v` written to it, every other as before. -/
structure Wrote (s t : State) (r : RegNum) (v : Word) : Prop where
  value : readReg t r = landed s r v
  others : ∀ q, q ≠ r → readReg t q = readReg s q

/-- Data memory is as before, each byte of it reads as before. -/
structure SameMemory (s t : State) : Prop where
  cells : t.dmem = s.dmem
  bytes : ∀ a, readByte t a = readByte s a

/-- What no instruction's own effect touches is as before: the program, the platform, the Reset pin, the parameters,
IR and the recent destinations (which the step keeps). -/
structure SameRest (s t : State) : Prop where
  imem : t.imem = s.imem
  holes : t.holes = s.holes
  resetPin : t.resetPin = s.resetPin
  cfg : t.cfg = s.cfg
  ir : t.ir = s.ir
  recent : t.recent = s.recent

/-- The next instruction is the pending target in a delay slot, else the next word; no branch is left pending (rules
R24, R25). -/
structure Advanced (s t : State) : Prop where
  pc : t.pc = s.pend.getD (s.pc + 4)
  pend : t.pend = none

/-- A transfer to `a` was taken: the delay slot is next, then `a` (rules R24, R180). -/
structure Transferred (s t : State) (a : Word) : Prop where
  pc : t.pc = s.pc + 4
  pend : t.pend = some a

/-- The instruction wrote `v` to register `r` and did nothing else. -/
structure Computed (s t : State) (r : RegNum) (v : Word) : Prop where
  register : Wrote s t r v
  memory : SameMemory s t
  rest : SameRest s t
  draws : t.draws = s.draws
  next : Advanced s t

/-- The instruction wrote the drawn word `v` to register `r`, made one draw, and did nothing else. -/
structure Drew (s t : State) (r : RegNum) (v : Word) : Prop where
  register : Wrote s t r v
  memory : SameMemory s t
  rest : SameRest s t
  draws : t.draws = s.draws + 1
  next : Advanced s t

/-- The instruction stored the bytes `bs` from address `a` up and did nothing else. -/
structure Stored (s t : State) (a : Word) (bs : List Byte) : Prop where
  registers : SameRegisters s t
  stored : ∀ k (h : k < bs.length), readByte t (a + BitVec.ofNat 32 k) = bs[k]
  others : ∀ b : Word, (∀ k < bs.length, b ≠ a + BitVec.ofNat 32 k) → readByte t b = readByte s b
  rest : SameRest s t
  draws : t.draws = s.draws
  next : Advanced s t

/-- The instruction changed nothing but `pc` and `pend`. -/
structure OnlyMoved (s t : State) : Prop where
  registers : SameRegisters s t
  memory : SameMemory s t
  rest : SameRest s t
  draws : t.draws = s.draws

/-- The instruction wrote the return address `v` to register `r`, took the transfer to `a`, and did nothing else. -/
structure Linked (s t : State) (r : RegNum) (v a : Word) : Prop where
  register : Wrote s t r v
  memory : SameMemory s t
  rest : SameRest s t
  draws : t.draws = s.draws
  next : Transferred s t a

/-- If register `r` takes the word `v`, the instruction completes: it writes `v` to `r` and does nothing else. -/
def Computes (i : Instr) (s : State) (r : RegNum) (v : Word) : Prop :=
  Accepts s r v → ∃ t, exec i s = .next t ∧ Computed s t r v

/-- The address of a data access. -/
def accessBase : DataAccess → Word
  | .load ea _ => ea
  | .store ea _ => ea

/-- The number of bytes of a data access. -/
def accessWidth : DataAccess → Nat
  | .load _ n => n
  | .store _ bytes => bytes.length

/-- The platform backs the `n` bytes from `a` up (rules R45, R47). -/
def Backed (s : State) (a : Word) (n : Nat) : Prop :=
  ∀ k < n, ∀ r ∈ s.holes, ¬(r.base ≤ (a + BitVec.ofNat 32 k).toNat ∧ (a + BitVec.ofNat 32 k).toNat < r.base + r.size)

/-- The invariant of the machine. -/
structure Inv (s : State) : Prop where
  /-- the data memory keeps its canonical form -/
  dmem : Memory.wf s.dmem
  /-- the instruction memory keeps its canonical form -/
  imem : InstrMemory.wf s.imem
  /-- register 0 stays 0 under R0_POLICY = refuse and a GPR_RESET of 0 (rule R21) -/
  zero : s.cfg.r0Policy = .refuse → s.cfg.gprReset = 0 → s.gpr[0] = 0
  /-- a branch is pending only after a control transfer, whose word IR holds (rules R24, R27) -/
  pend : s.pend ≠ none → ∃ i, decode s.ir = .ok i ∧ isControl i = true
  /-- at most three destinations are kept (rule R234) -/
  recent : s.recent.length ≤ 3

/-- The same machine under another R0_POLICY. -/
def withPolicy (s : State) (p : R0Policy) : State := { s with cfg := { s.cfg with r0Policy := p } }

end Sys2Proof.Machine
end

