-- ==== Sys2Proof/Certificates/Slice0/Obligations.lean ====
section
/-! DEFINITION. The statements for the provers.  A statement's docstring names the rule of spec/ it follows; where a
clause rests on a decision of spec/92_eei_decisions.md (D<n>, the spec's own choice where the source is silent) it is the
model's choice to take it: the docstring names the decision and the entry of the assumption log. -/

open Sys2Proof Sys2Proof.Machine

/-! ### Encoding (spec/30_encoding.md) -/

/-- Every instruction, with every value of every field, is what the decoder reads from the word the encoder writes
(rules R71 to R78). -/
def Obligations.DecodeOfEncodeIsTheInstruction : Prop :=
  ∀ i : Instr, decode (encode i) = .ok i

/-- A word that decodes is the word the encoder writes for its instruction: the decoder drops no bit, the ignored
fields among them (rules R71 to R80). -/
def Obligations.EncodeOfDecodeIsTheWord : Prop :=
  ∀ (w : Word) (i : Instr), decode w = .ok i → encode i = w

/-- The 22 rows of rule R76, by their mask 0xFC0007FF and their match. -/
def Obligations.RRWordsDecodeByTheirMatch : Prop :=
  ∀ w : Word,
    (w &&& 0xFC0007FF = 0x00000000 → decode w = .ok (.sll (w.extractLsb 25 21) (w.extractLsb 20 16) (w.extractLsb 15 11))) ∧
    (w &&& 0xFC0007FF = 0x00000002 → decode w = .ok (.srl (w.extractLsb 25 21) (w.extractLsb 20 16) (w.extractLsb 15 11))) ∧
    (w &&& 0xFC0007FF = 0x00000003 → decode w = .ok (.sra (w.extractLsb 25 21) (w.extractLsb 20 16) (w.extractLsb 15 11))) ∧
    (w &&& 0xFC0007FF = 0x00000008 → decode w = .ok (.jr (w.extractLsb 25 21) (w.extractLsb 20 16) (w.extractLsb 15 11))) ∧
    (w &&& 0xFC0007FF = 0x00000009 → decode w = .ok (.jalr (w.extractLsb 25 21) (w.extractLsb 20 16) (w.extractLsb 15 11))) ∧
    (w &&& 0xFC0007FF = 0x00000018 → decode w = .ok (.mult (w.extractLsb 25 21) (w.extractLsb 20 16) (w.extractLsb 15 11))) ∧
    (w &&& 0xFC0007FF = 0x00000019 → decode w = .ok (.multu (w.extractLsb 25 21) (w.extractLsb 20 16) (w.extractLsb 15 11))) ∧
    (w &&& 0xFC0007FF = 0x0000001A → decode w = .ok (.div (w.extractLsb 25 21) (w.extractLsb 20 16) (w.extractLsb 15 11))) ∧
    (w &&& 0xFC0007FF = 0x0000001B → decode w = .ok (.divu (w.extractLsb 25 21) (w.extractLsb 20 16) (w.extractLsb 15 11))) ∧
    (w &&& 0xFC0007FF = 0x00000020 → decode w = .ok (.add (w.extractLsb 25 21) (w.extractLsb 20 16) (w.extractLsb 15 11))) ∧
    (w &&& 0xFC0007FF = 0x00000021 → decode w = .ok (.addu (w.extractLsb 25 21) (w.extractLsb 20 16) (w.extractLsb 15 11))) ∧
    (w &&& 0xFC0007FF = 0x00000022 → decode w = .ok (.sub (w.extractLsb 25 21) (w.extractLsb 20 16) (w.extractLsb 15 11))) ∧
    (w &&& 0xFC0007FF = 0x00000023 → decode w = .ok (.subu (w.extractLsb 25 21) (w.extractLsb 20 16) (w.extractLsb 15 11))) ∧
    (w &&& 0xFC0007FF = 0x00000024 → decode w = .ok (.and (w.extractLsb 25 21) (w.extractLsb 20 16) (w.extractLsb 15 11))) ∧
    (w &&& 0xFC0007FF = 0x00000025 → decode w = .ok (.or (w.extractLsb 25 21) (w.extractLsb 20 16) (w.extractLsb 15 11))) ∧
    (w &&& 0xFC0007FF = 0x00000026 → decode w = .ok (.xor (w.extractLsb 25 21) (w.extractLsb 20 16) (w.extractLsb 15 11))) ∧
    (w &&& 0xFC0007FF = 0x0000002A → decode w = .ok (.slt (w.extractLsb 25 21) (w.extractLsb 20 16) (w.extractLsb 15 11))) ∧
    (w &&& 0xFC0007FF = 0x0000002B → decode w = .ok (.sgt (w.extractLsb 25 21) (w.extractLsb 20 16) (w.extractLsb 15 11))) ∧
    (w &&& 0xFC0007FF = 0x0000002C → decode w = .ok (.sle (w.extractLsb 25 21) (w.extractLsb 20 16) (w.extractLsb 15 11))) ∧
    (w &&& 0xFC0007FF = 0x0000002D → decode w = .ok (.sge (w.extractLsb 25 21) (w.extractLsb 20 16) (w.extractLsb 15 11))) ∧
    (w &&& 0xFC0007FF = 0x0000002E → decode w = .ok (.seq (w.extractLsb 25 21) (w.extractLsb 20 16) (w.extractLsb 15 11))) ∧
    (w &&& 0xFC0007FF = 0x0000002F → decode w = .ok (.sne (w.extractLsb 25 21) (w.extractLsb 20 16) (w.extractLsb 15 11)))

/-- The two rows of rule R77, by their mask 0xFC000000 and their match. -/
def Obligations.JWordsDecodeByTheirMatch : Prop :=
  ∀ w : Word,
    (w &&& 0xFC000000 = 0x08000000 → decode w = .ok (.j (w.extractLsb 25 0))) ∧
    (w &&& 0xFC000000 = 0x0C000000 → decode w = .ok (.jal (w.extractLsb 25 0)))

/-- The 27 rows of rule R78, by their mask 0xFC000000 and their match. -/
def Obligations.RIWordsDecodeByTheirMatch : Prop :=
  ∀ w : Word,
    (w &&& 0xFC000000 = 0x10000000 → decode w = .ok (.beqz (w.extractLsb 25 21) (w.extractLsb 20 16) (w.extractLsb 15 0))) ∧
    (w &&& 0xFC000000 = 0x14000000 → decode w = .ok (.bnez (w.extractLsb 25 21) (w.extractLsb 20 16) (w.extractLsb 15 0))) ∧
    (w &&& 0xFC000000 = 0x20000000 → decode w = .ok (.addi (w.extractLsb 25 21) (w.extractLsb 20 16) (w.extractLsb 15 0))) ∧
    (w &&& 0xFC000000 = 0x24000000 → decode w = .ok (.addui (w.extractLsb 25 21) (w.extractLsb 20 16) (w.extractLsb 15 0))) ∧
    (w &&& 0xFC000000 = 0x28000000 → decode w = .ok (.subi (w.extractLsb 25 21) (w.extractLsb 20 16) (w.extractLsb 15 0))) ∧
    (w &&& 0xFC000000 = 0x2C000000 → decode w = .ok (.subui (w.extractLsb 25 21) (w.extractLsb 20 16) (w.extractLsb 15 0))) ∧
    (w &&& 0xFC000000 = 0x30000000 → decode w = .ok (.andi (w.extractLsb 25 21) (w.extractLsb 20 16) (w.extractLsb 15 0))) ∧
    (w &&& 0xFC000000 = 0x34000000 → decode w = .ok (.ori (w.extractLsb 25 21) (w.extractLsb 20 16) (w.extractLsb 15 0))) ∧
    (w &&& 0xFC000000 = 0x38000000 → decode w = .ok (.xori (w.extractLsb 25 21) (w.extractLsb 20 16) (w.extractLsb 15 0))) ∧
    (w &&& 0xFC000000 = 0x3C000000 → decode w = .ok (.lhi (w.extractLsb 25 21) (w.extractLsb 20 16) (w.extractLsb 15 0))) ∧
    (w &&& 0xFC000000 = 0x40000000 → decode w = .ok (.slli (w.extractLsb 25 21) (w.extractLsb 20 16) (w.extractLsb 15 0))) ∧
    (w &&& 0xFC000000 = 0x44000000 → decode w = .ok (.srli (w.extractLsb 25 21) (w.extractLsb 20 16) (w.extractLsb 15 0))) ∧
    (w &&& 0xFC000000 = 0x48000000 → decode w = .ok (.srai (w.extractLsb 25 21) (w.extractLsb 20 16) (w.extractLsb 15 0))) ∧
    (w &&& 0xFC000000 = 0x68000000 → decode w = .ok (.slti (w.extractLsb 25 21) (w.extractLsb 20 16) (w.extractLsb 15 0))) ∧
    (w &&& 0xFC000000 = 0x6C000000 → decode w = .ok (.sgti (w.extractLsb 25 21) (w.extractLsb 20 16) (w.extractLsb 15 0))) ∧
    (w &&& 0xFC000000 = 0x70000000 → decode w = .ok (.slei (w.extractLsb 25 21) (w.extractLsb 20 16) (w.extractLsb 15 0))) ∧
    (w &&& 0xFC000000 = 0x74000000 → decode w = .ok (.sgei (w.extractLsb 25 21) (w.extractLsb 20 16) (w.extractLsb 15 0))) ∧
    (w &&& 0xFC000000 = 0x78000000 → decode w = .ok (.seqi (w.extractLsb 25 21) (w.extractLsb 20 16) (w.extractLsb 15 0))) ∧
    (w &&& 0xFC000000 = 0x7C000000 → decode w = .ok (.snei (w.extractLsb 25 21) (w.extractLsb 20 16) (w.extractLsb 15 0))) ∧
    (w &&& 0xFC000000 = 0x80000000 → decode w = .ok (.lb (w.extractLsb 25 21) (w.extractLsb 20 16) (w.extractLsb 15 0))) ∧
    (w &&& 0xFC000000 = 0x84000000 → decode w = .ok (.lh (w.extractLsb 25 21) (w.extractLsb 20 16) (w.extractLsb 15 0))) ∧
    (w &&& 0xFC000000 = 0x8C000000 → decode w = .ok (.lw (w.extractLsb 25 21) (w.extractLsb 20 16) (w.extractLsb 15 0))) ∧
    (w &&& 0xFC000000 = 0x90000000 → decode w = .ok (.lbu (w.extractLsb 25 21) (w.extractLsb 20 16) (w.extractLsb 15 0))) ∧
    (w &&& 0xFC000000 = 0x94000000 → decode w = .ok (.lhu (w.extractLsb 25 21) (w.extractLsb 20 16) (w.extractLsb 15 0))) ∧
    (w &&& 0xFC000000 = 0xA0000000 → decode w = .ok (.sb (w.extractLsb 25 21) (w.extractLsb 20 16) (w.extractLsb 15 0))) ∧
    (w &&& 0xFC000000 = 0xA4000000 → decode w = .ok (.sh (w.extractLsb 25 21) (w.extractLsb 20 16) (w.extractLsb 15 0))) ∧
    (w &&& 0xFC000000 = 0xAC000000 → decode w = .ok (.sw (w.extractLsb 25 21) (w.extractLsb 20 16) (w.extractLsb 15 0)))

/-- A word selects no instruction exactly when `op` is one of the 34 unassigned values, or `op` is 0 and `func` is
none of the 22 assigned ones.  The list is rule R81's; that such a word faults is decision D18 (log 16). -/
def Obligations.UnassignedWordsDecodeToNothing : Prop :=
  ∀ w : Word, (∃ e, decode w = .error e) ↔
    ((w.extractLsb 31 26).toNat ∈ [0x01, 0x06, 0x07, 0x13, 0x14, 0x15, 0x16, 0x17, 0x18, 0x19, 0x22, 0x26, 0x27, 0x2A,
        0x2C, 0x2D, 0x2E, 0x2F, 0x30, 0x31, 0x32, 0x33, 0x34, 0x35, 0x36, 0x37, 0x38, 0x39, 0x3A, 0x3B, 0x3C, 0x3D,
        0x3E, 0x3F] ∨
      (w.extractLsb 31 26).toNat = 0 ∧
        (w.extractLsb 10 0).toNat ∉ [0x000, 0x002, 0x003, 0x008, 0x009, 0x018, 0x019, 0x01A, 0x01B, 0x020, 0x021,
          0x022, 0x023, 0x024, 0x025, 0x026, 0x02A, 0x02B, 0x02C, 0x02D, 0x02E, 0x02F])

/-- An instruction's word matches its own row of the opcode table, and no other (rule R75: the tables are disjoint, so
the decoding is unambiguous). -/
def Obligations.AWordMatchesOneRowOnly : Prop :=
  (∀ i : Instr, encode i &&& maskOf i = matchOf i) ∧
  (∀ i j : Instr, encode i &&& maskOf j = matchOf j → matchOf i = matchOf j ∧ maskOf i = maskOf j)

/-- Words written out bit by bit from the encoding tables decode to the instructions they stand for, ignored fields
kept (spec/95_test_vectors.md sections 2.1 and 2.2). -/
def Obligations.WrittenOutWordsDecode : Prop :=
  decode 0b000000_00001_00010_00011_00000100000 = .ok (.add 1 2 3) ∧
  decode 0b000000_11111_11111_11111_00000001000 = .ok (.jr 31 31 31) ∧
  decode 0b000010_11111111111111111111111111 = .ok (.j 0x3FFFFFF) ∧
  decode 0b000100_00001_00010_1111111111111100 = .ok (.beqz 1 2 0xFFFC) ∧
  decode 0b001000_00001_00010_1111111111111100 = .ok (.addi 1 2 0xFFFC) ∧
  decode 0b001111_11111_11111_1000000000000000 = .ok (.lhi 31 31 0x8000) ∧
  decode 0b010000_00001_00010_1111111111100001 = .ok (.slli 1 2 0xFFE1) ∧
  decode 0b011110_00001_00010_1111111111111100 = .ok (.seqi 1 2 0xFFFC) ∧
  decode 0b100011_00001_00010_1111111111111100 = .ok (.lw 1 2 0xFFFC) ∧
  decode 0b101011_11111_11111_1111111111111111 = .ok (.sw 31 31 0xFFFF)

/-! ### The step (spec/10_state.md rule R25, spec/60_exceptions.md) -/

/-- When the pin Reset is 0, `pc` is a multiple of 4 and the word there decodes, the step is the instruction's: its
next state with IR holding the word and its destination the latest, its fault, or its refusal (rule R25; that IR holds
the word is rule R27, log 29; that `recent` is kept is log 19). -/
def Obligations.StepRunsTheDecodedInstruction : Prop :=
  ∀ (s : State) (w : Word) (i : Instr), s.resetPin = false → s.pc.toNat % 4 = 0 →
    cellRead s.pc.toNat s.imem = some w → decode w = .ok i → readsTooSoon i s = false →
    (∀ t, exec i s = .next t →
      step s = .next { t with ir := w, recent := (hazardMark i s t :: s.recent).take 3 }) ∧
    (∀ f, exec i s = .fault f → step s = .fault f) ∧
    (∀ r, exec i s = .refused r → step s = .refused r)

/-- What stops a step before an instruction runs, in the order of rule R205: a misaligned `pc` whatever stands there
(decision D9, log 7), an address that holds no word (log 15), a word that selects no instruction (decision D18,
log 16). -/
def Obligations.StepStopsBeforeExecuting : Prop :=
  ∀ s : State, s.resetPin = false →
    (s.pc.toNat % 4 ≠ 0 → step s = .fault .misalignedFetch) ∧
    (s.pc.toNat % 4 = 0 → cellRead s.pc.toNat s.imem = none → step s = .refused .noInstructionWord) ∧
    (∀ w e, s.pc.toNat % 4 = 0 → cellRead s.pc.toNat s.imem = some w → decode w = .error e →
      step s = .fault .illegalEncoding)

/-- While the pin Reset is 1 every step is the reset step, whatever the state: PC, IR and every general register take
their reset values, the pending transfer is dropped, both memories, the platform and the parameters are unchanged,
and a second such step changes nothing (rule R203; decisions D3, D7, D31, D36; logs 3, 4, 26, 27). -/
def Obligations.ResetStepResets : Prop :=
  ∀ s : State, s.resetPin = true → ∃ t, step s = .next t ∧
    t.pc = s.cfg.resetPc ∧ t.ir = s.cfg.resetIr ∧ (∀ r : RegNum, t.gpr[r.toNat]'r.isLt = s.cfg.gprReset) ∧
    t.pend = none ∧ t.dmem = s.dmem ∧ (∀ a, readByte t a = readByte s a) ∧ t.imem = s.imem ∧ t.holes = s.holes ∧
    t.resetPin = true ∧ t.cfg = s.cfg ∧ step t = .next t

/-- The state after reset under the defaults: PC, IR and the 32 general registers are 0 and no branch is pending
(rule R34, decisions D3, D7; logs 3, 4). -/
def Obligations.ResetStateValues : Prop :=
  State.reset.pc = 0 ∧ State.reset.ir = 0 ∧ (∀ r : RegNum, readReg State.reset r = 0) ∧ State.reset.pend = none ∧
    State.reset.resetPin = false ∧ State.reset.cfg = Config.default

/-- The invariant holds after reset. -/
def Obligations.InvariantHoldsAtReset : Prop := Inv State.reset

/-- Every step keeps the invariant: the canonical forms of both memories, register 0 at 0 under R0_POLICY = refuse
(decision D2, log 2), a pending branch only after a control transfer (rule R24, log 29), at most three recent
destinations (log 19). -/
def Obligations.StepKeepsTheInvariant : Prop :=
  ∀ s t : State, Inv s → step s = .next t → Inv t

/-- No step changes the instruction memory, so a store never changes what is fetched (rule R52, decision D17, log 15),
nor the parameters, the platform's map or the level of the pin Reset. -/
def Obligations.StepKeepsProgramAndParameters : Prop :=
  ∀ s t : State, step s = .next t →
    t.imem = s.imem ∧ t.cfg = s.cfg ∧ t.holes = s.holes ∧ t.resetPin = s.resetPin

/-- A taken transfer takes effect after the one instruction that follows it: the step after it executes `pc + 4`, and
the one after that starts at the target with nothing pending.  After a first step that left nothing pending, the second
executes `pc + 4` and the third starts at `pc + 8` (rules R24, R25, R180; decision D21, log 18). -/
def Obligations.DelaySlotThenTarget : Prop :=
  ∀ s t u : State, s.resetPin = false → s.pend = none → step s = .next t → step t = .next u →
    t.pc = s.pc + 4 ∧
    (∀ a, t.pend = some a → u.pc = a ∧ u.pend = none) ∧
    (t.pend = none → u.pc = s.pc + 8)

/-- A control transfer in the delay slot of a taken one faults, whatever its condition, and does nothing else (rule
R189, decision D21, log 18). -/
def Obligations.ControlTransferInSlotFaults : Prop :=
  ∀ (i : Instr) (s : State), isControl i = true → s.pend ≠ none → exec i s = .fault .controlInDelaySlot

/-- A transfer to an address that is no multiple of 4 lets its delay slot execute; the fetch at the target faults
(rule R190, decision D9, log 7). -/
def Obligations.MisalignedTargetFaultsAtItsFetch : Prop :=
  ∀ (s t : State) (a : Word), s.resetPin = false → s.pend = some a → a.toNat % 4 ≠ 0 → step s = .next t →
    step t = .fault .misalignedFetch

/-- Only a control transfer, and only outside a delay slot, leaves a branch pending; its delay slot is the next word
(rules R24, R180, R189; decision D21, log 18). -/
def Obligations.OnlyControlTransfersLeaveABranchPending : Prop :=
  ∀ (i : Instr) (s t : State) (a : Word), exec i s = .next t → t.pend = some a →
    isControl i = true ∧ s.pend = none ∧ t.pc = s.pc + 4

/-! ### All instructions -/

/-- An instruction changes no register but its destination (the column "write" of rule R22; its roles are decisions
D10, D19, D33, D34, logs 8, 17). -/
def Obligations.InstructionsChangeOnlyTheirDestination : Prop :=
  ∀ (i : Instr) (s t : State), exec i s = .next t →
    ∀ q, destination s.cfg i ≠ some q → readReg t q = readReg s q

/-- An instruction changes no byte of data memory but those it stores; one that stores nothing changes none (rules
R22, R54, R170). -/
def Obligations.InstructionsChangeOnlyTheBytesTheyStore : Prop :=
  ∀ (i : Instr) (s t : State), exec i s = .next t →
    ∀ b, (∀ ea bytes, dataAccess i s = some (.store ea bytes) →
        ∀ k < bytes.length, b ≠ ea + BitVec.ofNat 32 k) → readByte t b = readByte s b

/-- An instruction depends on no register but its sources (the column "read" of rule R22; its roles are decisions
D10, D33, D34, log 8): in two states that differ in other registers only, it ends alike, and where it completes it
leaves the same `pc`, pending branch, data memory and destination. -/
def Obligations.InstructionsDependOnlyOnTheirSources : Prop :=
  ∀ (i : Instr) (s s' : State), s' = { s with gpr := s'.gpr } →
    (∀ r ∈ sources i, readReg s' r = readReg s r) →
    (∀ t, exec i s = .next t → ∃ t', exec i s' = .next t' ∧ t'.pc = t.pc ∧ t'.pend = t.pend ∧ t'.dmem = t.dmem ∧
      t'.draws = t.draws ∧ ∀ r, destination s.cfg i = some r → readReg t' r = readReg t r) ∧
    (∀ f, exec i s = .fault f → exec i s' = .fault f) ∧
    (∀ f, exec i s = .refused f → exec i s' = .refused f)

/-- An instruction stops only as the spec names it: a control transfer in a slot, a misaligned data access, a write of
register 0 under R0_POLICY = refuse, or an access the platform does not acknowledge.  So nothing traps on overflow,
on a zero divisor or on a memory error (rules R201, R205; decisions D2, D9, D21, D30; logs 2, 7, 18, 25). -/
def Obligations.InstructionsStopOnlyAsNamed : Prop :=
  ∀ (i : Instr) (s : State),
    (∀ f, exec i s = .fault f →
      (f = .controlInDelaySlot ∧ isControl i = true ∧ s.pend ≠ none) ∨
      (f = .misalignedData ∧ ∃ a, dataAccess i s = some a ∧ (accessBase a).toNat % accessWidth a ≠ 0) ∨
      (f = .r0Write ∧ destination s.cfg i = some 0 ∧ s.cfg.r0Policy = .refuse)) ∧
    (∀ r, exec i s = .refused r →
      r = .neverAcknowledged ∧ ∃ a, dataAccess i s = some a ∧ ¬ Backed s (accessBase a) (accessWidth a))

/-- R0_POLICY = refuse claims nothing that depends on what register 0 is: a step it lets happen is the step of the
other two policies, as long as register 0 holds 0 (rule R21, decision D2, log 2). -/
def Obligations.RefusePolicyAgreesWithTheOthers : Prop :=
  ∀ s t : State, s.cfg.r0Policy = .refuse → s.gpr[0] = 0 → step s = .next t →
    ∀ p, step (withPolicy s p) = .next (withPolicy t p)

/-- What R0_POLICY = refuse refuses is exactly a value other than 0 written to register 0, as R0_POLICY = ordinary
would write it; every other instruction goes on as under it (rule R21, decision D2, log 2). -/
def Obligations.RefusePolicyFaultsExactlyOnNonzeroWrites : Prop :=
  ∀ (i : Instr) (s t : State), s.cfg.r0Policy = .refuse → exec i (withPolicy s .ordinary) = .next t →
    exec i s = if destination s.cfg i = some 0 ∧ t.gpr[0] ≠ 0 then .fault .r0Write
      else .next (withPolicy t .refuse)

/-- The fields an instruction does not use change nothing: `rs1` and `rd` of JR, `rs1` of JALR and (where the link
register is fixed) its `rd`, `rs1` of BEQZ and BNEZ, `rs0` of LHI, and with SHAMT_BITS = 5 bits 15..5 of a shift
immediate (rule R80, derived by the spec; decisions D12, D19, D25; logs 10, 17, 21, 34). -/
def Obligations.UnusedFieldsChangeNothing : Prop :=
  ∀ (s : State) (a b b' c c' : RegNum) (imm imm' : Half),
    exec (.jr a b c) s = exec (.jr a b' c') s ∧
    exec (.jalr a b c) s = exec (.jalr a b' c) s ∧
    (s.cfg.linkRegJalr ≠ .rdField → exec (.jalr a b c) s = exec (.jalr a b' c') s) ∧
    exec (.beqz a b imm) s = exec (.beqz a b' imm) s ∧
    exec (.bnez a b imm) s = exec (.bnez a b' imm) s ∧
    exec (.lhi b a imm) s = exec (.lhi b' a imm) s ∧
    (s.cfg.shamtBits = 5 → imm.extractLsb 4 0 = imm'.extractLsb 4 0 →
      exec (.slli a b imm) s = exec (.slli a b imm') s ∧
      exec (.srli a b imm) s = exec (.srli a b imm') s ∧
      exec (.srai a b imm) s = exec (.srai a b imm') s)

/-! ### Arithmetic (spec/40_arithmetic.md) -/

/-- ADD, ADDU, SUB, SUBU: sum and difference modulo 2^32, the left operand in `rs0`; signed and unsigned forms agree
and nothing traps (section 2 and 3; decisions D13, D27; logs 11, 23; register 0 is D2, log 2). -/
def Obligations.AddAndSubtractRegisters : Prop :=
  ∀ (s : State) (rs0 rs1 rd : RegNum),
    let a : Int := (readReg s rs0).toNat
    let b : Int := (readReg s rs1).toNat
    Computes (.add rs0 rs1 rd) s rd (BitVec.ofInt 32 (a + b)) ∧
    Computes (.addu rs0 rs1 rd) s rd (BitVec.ofInt 32 (a + b)) ∧
    Computes (.sub rs0 rs1 rd) s rd (BitVec.ofInt 32 (a - b)) ∧
    Computes (.subu rs0 rs1 rd) s rd (BitVec.ofInt 32 (a - b))

/-- ADDI and SUBI take the immediate signed; ADDUI and SUBUI take it unsigned under UIMM_ZEXT, else signed; the
destination is `rs1` (sections 2 and 3; decisions D10, D11, D27; logs 8, 9, 23; register 0 is D2, log 2). -/
def Obligations.AddAndSubtractImmediates : Prop :=
  ∀ (s : State) (rs0 rs1 : RegNum) (imm : Half),
    let a : Int := (readReg s rs0).toNat
    let u : Int := if s.cfg.uimmZext then imm.toNat else imm.toInt
    Computes (.addi rs0 rs1 imm) s rs1 (BitVec.ofInt 32 (a + imm.toInt)) ∧
    Computes (.addui rs0 rs1 imm) s rs1 (BitVec.ofInt 32 (a + u)) ∧
    Computes (.subi rs0 rs1 imm) s rs1 (BitVec.ofInt 32 (a - imm.toInt)) ∧
    Computes (.subui rs0 rs1 imm) s rs1 (BitVec.ofInt 32 (a - u))

/-- With MUL_RESULT = low, MULT and MULTU both write the unsigned product modulo 2^32; with MUL_RESULT = high they
write the high word of the exact signed and of the exact unsigned product (section 4; decisions D13, D14; logs 11, 12;
register 0 is D2, log 2). -/
def Obligations.Products : Prop :=
  ∀ (s : State) (rs0 rs1 rd : RegNum),
    let a := readReg s rs0
    let b := readReg s rs1
    (s.cfg.mulResult = .low →
      Computes (.mult rs0 rs1 rd) s rd (BitVec.ofNat 32 (a.toNat * b.toNat)) ∧
      Computes (.multu rs0 rs1 rd) s rd (BitVec.ofNat 32 (a.toNat * b.toNat))) ∧
    (s.cfg.mulResult = .high →
      Computes (.mult rs0 rs1 rd) s rd (BitVec.ofInt 32 (a.toInt * b.toInt / 2 ^ 32)) ∧
      Computes (.multu rs0 rs1 rd) s rd (BitVec.ofNat 32 (a.toNat * b.toNat / 2 ^ 32)))

/-- DIV of a by b, b not 0 and not -2^31 by -1: the quotient has the sign of a * b, or is 0, and its size is the size
of a divided by the size of b, rounded down (section 5 and 6; decisions D13, D15; logs 11, 13; register 0 is D2, log
2). -/
def Obligations.SignedQuotient : Prop :=
  ∀ (s : State) (rs0 rs1 rd : RegNum),
    let a := (readReg s rs0).toInt
    let b := (readReg s rs1).toInt
    b ≠ 0 → ¬(a = -2 ^ 31 ∧ b = -1) →
      Computes (.div rs0 rs1 rd) s rd (BitVec.ofInt 32 (a.sign * b.sign * (a.natAbs / b.natAbs : Nat)))

/-- DIVU of a by b, b not 0: the quotient rounded down (section 5; decision D13, log 11; register 0 is D2, log 2). -/
def Obligations.UnsignedQuotient : Prop :=
  ∀ (s : State) (rs0 rs1 rd : RegNum),
    let a := (readReg s rs0).toNat
    let b := (readReg s rs1).toNat
    b ≠ 0 → Computes (.divu rs0 rs1 rd) s rd (BitVec.ofNat 32 (a / b))

/-- A division by zero, and -2^31 by -1 in DIV, completes: it writes the next draw, which nothing constrains, makes
the draw, and does all else as a division (section 5; decision D16, log 14; register 0 is D2, log 2). -/
def Obligations.DivisionCornersCompleteWithADraw : Prop :=
  ∀ (s : State) (rs0 rs1 rd : RegNum),
    let a := readReg s rs0
    let b := readReg s rs1
    (b = 0 → Accepts s rd (Config.divByZero s.draws) →
      (∃ t, exec (.div rs0 rs1 rd) s = .next t ∧ Drew s t rd (Config.divByZero s.draws)) ∧
      (∃ t, exec (.divu rs0 rs1 rd) s = .next t ∧ Drew s t rd (Config.divByZero s.draws))) ∧
    (a = 0x80000000 → b = 0xFFFFFFFF → Accepts s rd (Config.divOverflow s.draws) →
      ∃ t, exec (.div rs0 rs1 rd) s = .next t ∧ Drew s t rd (Config.divOverflow s.draws))

/-! ### Logical (spec/41_logical.md) -/

/-- AND, OR, XOR (rules R120, R122, R124), by their words and bit by bit: the word with `op` 0 and the function code
decodes to the instruction, and the instruction writes to `x[rd]` the word whose bit k is the conjunction, the
disjunction, the exclusive disjunction of the operands' bits k. What happens when `rd` is register 0 is decision D2,
log 2, and what it keeps of `draws`, `recent` and IR is logs 14, 19 and 29: the model's choices. -/
def Obligations.LogicalRegisters : Prop :=
  ∀ (s : State) (rs0 rs1 rd : RegNum),
    let a := readReg s rs0
    let b := readReg s rs1
    encode (.and rs0 rs1 rd) = 0b000000#6 ++ rs0 ++ rs1 ++ rd ++ 0b00000100100#11 ∧
    encode (.or rs0 rs1 rd) = 0b000000#6 ++ rs0 ++ rs1 ++ rd ++ 0b00000100101#11 ∧
    encode (.xor rs0 rs1 rd) = 0b000000#6 ++ rs0 ++ rs1 ++ rd ++ 0b00000100110#11 ∧
    (∀ v : Word, (∀ k < 32, v.getLsbD k = (a.getLsbD k && b.getLsbD k)) → Computes (.and rs0 rs1 rd) s rd v) ∧
    (∀ v : Word, (∀ k < 32, v.getLsbD k = (a.getLsbD k || b.getLsbD k)) → Computes (.or rs0 rs1 rd) s rd v) ∧
    (∀ v : Word, (∀ k < 32, v.getLsbD k = (a.getLsbD k != b.getLsbD k)) → Computes (.xor rs0 rs1 rd) s rd v)

/-- ANDI, ORI, XORI, bit by bit: under UIMM_ZEXT bits 31..16 of the immediate are 0, else copies of its bit 15 (rule
R126 is decision D11, log 9; the roles of the fields are D10, log 8; register 0 is D2, log 2). -/
def Obligations.LogicalImmediates : Prop :=
  ∀ (s : State) (rs0 rs1 : RegNum) (imm : Half) (m : Word),
    (∀ k < 32, m.getLsbD k = if k < 16 then imm.getLsbD k else !s.cfg.uimmZext && imm.getLsbD 15) →
    let a := readReg s rs0
    (∀ v : Word, (∀ k < 32, v.getLsbD k = (a.getLsbD k && m.getLsbD k)) → Computes (.andi rs0 rs1 imm) s rs1 v) ∧
    (∀ v : Word, (∀ k < 32, v.getLsbD k = (a.getLsbD k || m.getLsbD k)) → Computes (.ori rs0 rs1 imm) s rs1 v) ∧
    (∀ v : Word, (∀ k < 32, v.getLsbD k = (a.getLsbD k != m.getLsbD k)) → Computes (.xori rs0 rs1 imm) s rs1 v)

/-! ### Shift (spec/42_shift.md) -/

/-- SLL, SRL, SRA by the low SHAMT_BITS bits of `x[rs1]`: times 2^n modulo 2^32, unsigned divided by 2^n, signed
divided by 2^n, both rounded down (decisions D12, D13; logs 10, 11; register 0 is D2, log 2). -/
def Obligations.ShiftsByRegister : Prop :=
  ∀ (s : State) (rs0 rs1 rd : RegNum),
    let a := readReg s rs0
    let n := (readReg s rs1).toNat % 2 ^ s.cfg.shamtBits
    Computes (.sll rs0 rs1 rd) s rd (BitVec.ofNat 32 (a.toNat * 2 ^ n)) ∧
    Computes (.srl rs0 rs1 rd) s rd (BitVec.ofNat 32 (a.toNat / 2 ^ n)) ∧
    Computes (.sra rs0 rs1 rd) s rd (BitVec.ofInt 32 (a.toInt / 2 ^ n))

/-- SLLI, SRLI, SRAI by the low SHAMT_BITS bits of the immediate (decisions D10, D12; logs 8, 10; register 0 is D2,
log 2). -/
def Obligations.ShiftsByImmediate : Prop :=
  ∀ (s : State) (rs0 rs1 : RegNum) (imm : Half),
    let a := readReg s rs0
    let n := imm.toNat % 2 ^ s.cfg.shamtBits
    Computes (.slli rs0 rs1 imm) s rs1 (BitVec.ofNat 32 (a.toNat * 2 ^ n)) ∧
    Computes (.srli rs0 rs1 imm) s rs1 (BitVec.ofNat 32 (a.toNat / 2 ^ n)) ∧
    Computes (.srai rs0 rs1 imm) s rs1 (BitVec.ofInt 32 (a.toInt / 2 ^ n))

/-! ### Set (spec/43_set.md) -/

/-- The six register sets write 1 or 0; the orders compare signed (decisions D13, D23; logs 11, 20; register 0 is D2,
log 2). -/
def Obligations.SetsOnRegisters : Prop :=
  ∀ (s : State) (rs0 rs1 rd : RegNum),
    let a := readReg s rs0
    let b := readReg s rs1
    Computes (.slt rs0 rs1 rd) s rd (if a.toInt < b.toInt then 1 else 0) ∧
    Computes (.sgt rs0 rs1 rd) s rd (if b.toInt < a.toInt then 1 else 0) ∧
    Computes (.sle rs0 rs1 rd) s rd (if a.toInt ≤ b.toInt then 1 else 0) ∧
    Computes (.sge rs0 rs1 rd) s rd (if b.toInt ≤ a.toInt then 1 else 0) ∧
    Computes (.seq rs0 rs1 rd) s rd (if a.toInt = b.toInt then 1 else 0) ∧
    Computes (.sne rs0 rs1 rd) s rd (if a.toInt = b.toInt then 0 else 1)

/-- The six immediate sets compare with the signed immediate (decisions D10, D11, D23; logs 8, 9, 20; register 0 is
D2, log 2). -/
def Obligations.SetsOnImmediates : Prop :=
  ∀ (s : State) (rs0 rs1 : RegNum) (imm : Half),
    let a := (readReg s rs0).toInt
    Computes (.slti rs0 rs1 imm) s rs1 (if a < imm.toInt then 1 else 0) ∧
    Computes (.sgti rs0 rs1 imm) s rs1 (if imm.toInt < a then 1 else 0) ∧
    Computes (.slei rs0 rs1 imm) s rs1 (if a ≤ imm.toInt then 1 else 0) ∧
    Computes (.sgei rs0 rs1 imm) s rs1 (if imm.toInt ≤ a then 1 else 0) ∧
    Computes (.seqi rs0 rs1 imm) s rs1 (if a = imm.toInt then 1 else 0) ∧
    Computes (.snei rs0 rs1 imm) s rs1 (if a = imm.toInt then 0 else 1)

/-! ### Load high, loads and stores (spec/44_load_store.md) -/

/-- LHI writes the immediate times 2^16, whatever `rs0` (decision D25, log 21; register 0 is D2, log 2). -/
def Obligations.LoadHigh : Prop :=
  ∀ (s : State) (rs0 rs1 : RegNum) (imm : Half),
    Computes (.lhi rs0 rs1 imm) s rs1 (BitVec.ofNat 32 (imm.toNat * 2 ^ 16))

/-- LHI then ORI into a register other than 0 builds the word of the two immediates, under UIMM_ZEXT (the corner case
of rule R123; decisions D11, D25; logs 9, 21). -/
def Obligations.LoadHighThenOrBuildsAWord : Prop :=
  ∀ (s : State) (rs0 r : RegNum) (hi lo : Half), r ≠ 0 → s.cfg.uimmZext = true →
    ∃ t u, exec (.lhi rs0 r hi) s = .next t ∧ exec (.ori r r lo) t = .next u ∧ readReg u r = hi ++ lo

/-- The effective address is the base plus the signed displacement modulo 2^32 (decisions D8, D28; logs 6, 23). -/
def Obligations.EffectiveAddressIsBasePlusDisplacement : Prop :=
  ∀ (s : State) (rs0 : RegNum) (imm : Half),
    ((effectiveAddress s rs0 imm).toNat : Int) = ((readReg s rs0).toNat + imm.toInt) % 2 ^ 32

/-- LB and LBU load the byte at the effective address, sign-extended and zero-extended (decisions D8, D10; logs 6, 8;
that the platform backs the address is D30, log 25; register 0 is D2, log 2). -/
def Obligations.LoadByte : Prop :=
  ∀ (s : State) (rs0 rs1 : RegNum) (imm : Half),
    let ea := effectiveAddress s rs0 imm
    Backed s ea 1 →
      Computes (.lb rs0 rs1 imm) s rs1 (BitVec.ofInt 32 (readByte s ea).toInt) ∧
      Computes (.lbu rs0 rs1 imm) s rs1 (BitVec.ofNat 32 (readByte s ea).toNat)

/-- LH and LHU load the halfword at an even effective address in the byte order of ENDIAN, sign-extended and zero-
extended (decisions D1, D8, D10, D30; logs 1, 6, 8, 25; register 0 is D2, log 2). -/
def Obligations.LoadHalfword : Prop :=
  ∀ (s : State) (rs0 rs1 : RegNum) (imm : Half),
    let ea := effectiveAddress s rs0 imm
    let b0 := (readByte s ea).toNat
    let b1 := (readByte s (ea + 1)).toNat
    let h : Half := BitVec.ofNat 16 (if s.cfg.endian = .big then b0 * 2 ^ 8 + b1 else b1 * 2 ^ 8 + b0)
    ea.toNat % 2 = 0 → Backed s ea 2 →
      Computes (.lh rs0 rs1 imm) s rs1 (BitVec.ofInt 32 h.toInt) ∧
      Computes (.lhu rs0 rs1 imm) s rs1 (BitVec.ofNat 32 h.toNat)

/-- LW loads the word at an effective address that is a multiple of 4 in the byte order of ENDIAN (decisions D1, D8,
D10, D30; logs 1, 6, 8, 25; register 0 is D2, log 2). -/
def Obligations.LoadWord : Prop :=
  ∀ (s : State) (rs0 rs1 : RegNum) (imm : Half),
    let ea := effectiveAddress s rs0 imm
    let b0 := (readByte s ea).toNat
    let b1 := (readByte s (ea + 1)).toNat
    let b2 := (readByte s (ea + 2)).toNat
    let b3 := (readByte s (ea + 3)).toNat
    ea.toNat % 4 = 0 → Backed s ea 4 →
      Computes (.lw rs0 rs1 imm) s rs1 (BitVec.ofNat 32
        (if s.cfg.endian = .big then b0 * 2 ^ 24 + b1 * 2 ^ 16 + b2 * 2 ^ 8 + b3
          else b3 * 2 ^ 24 + b2 * 2 ^ 16 + b1 * 2 ^ 8 + b0))

/-- SB, SH and SW store the low 1, 2 and 4 bytes of `x[rs1]` at an aligned effective address in the byte order of
ENDIAN and change no register and no other byte (decisions D1, D8, D10, D26, D30; logs 1, 6, 8, 22, 25). -/
def Obligations.Stores : Prop :=
  ∀ (s : State) (rs0 rs1 : RegNum) (imm : Half),
    let ea := effectiveAddress s rs0 imm
    let x := (readReg s rs1).toNat
    let c0 : Byte := BitVec.ofNat 8 x
    let c1 : Byte := BitVec.ofNat 8 (x / 2 ^ 8)
    let c2 : Byte := BitVec.ofNat 8 (x / 2 ^ 16)
    let c3 : Byte := BitVec.ofNat 8 (x / 2 ^ 24)
    (Backed s ea 1 → ∃ t, exec (.sb rs0 rs1 imm) s = .next t ∧ Stored s t ea [c0]) ∧
    (ea.toNat % 2 = 0 → Backed s ea 2 → ∃ t, exec (.sh rs0 rs1 imm) s = .next t ∧
      Stored s t ea (if s.cfg.endian = .big then [c1, c0] else [c0, c1])) ∧
    (ea.toNat % 4 = 0 → Backed s ea 4 → ∃ t, exec (.sw rs0 rs1 imm) s = .next t ∧
      Stored s t ea (if s.cfg.endian = .big then [c3, c2, c1, c0] else [c0, c1, c2, c3]))

/-- A halfword access at an odd address and a word access at no multiple of 4 fault before anything else (decision
D9, log 7). -/
def Obligations.MisalignedAccessesFault : Prop :=
  ∀ (s : State) (rs0 rs1 : RegNum) (imm : Half),
    let ea := effectiveAddress s rs0 imm
    (ea.toNat % 2 ≠ 0 →
      exec (.lh rs0 rs1 imm) s = .fault .misalignedData ∧ exec (.lhu rs0 rs1 imm) s = .fault .misalignedData ∧
      exec (.sh rs0 rs1 imm) s = .fault .misalignedData) ∧
    (ea.toNat % 4 ≠ 0 →
      exec (.lw rs0 rs1 imm) s = .fault .misalignedData ∧ exec (.sw rs0 rs1 imm) s = .fault .misalignedData)

/-- An aligned access the platform does not back is never acknowledged: it has no step (decisions D30, D32, log 25). -/
def Obligations.UnbackedAccessesAreNeverAcknowledged : Prop :=
  ∀ (s : State) (rs0 rs1 : RegNum) (imm : Half),
    let ea := effectiveAddress s rs0 imm
    (¬ Backed s ea 1 →
      exec (.lb rs0 rs1 imm) s = .refused .neverAcknowledged ∧
      exec (.lbu rs0 rs1 imm) s = .refused .neverAcknowledged ∧
      exec (.sb rs0 rs1 imm) s = .refused .neverAcknowledged) ∧
    (ea.toNat % 2 = 0 → ¬ Backed s ea 2 →
      exec (.lh rs0 rs1 imm) s = .refused .neverAcknowledged ∧
      exec (.lhu rs0 rs1 imm) s = .refused .neverAcknowledged ∧
      exec (.sh rs0 rs1 imm) s = .refused .neverAcknowledged) ∧
    (ea.toNat % 4 = 0 → ¬ Backed s ea 4 →
      exec (.lw rs0 rs1 imm) s = .refused .neverAcknowledged ∧
      exec (.sw rs0 rs1 imm) s = .refused .neverAcknowledged)

/-- A store followed by a load of the same address returns what was stored: SW then LW into a register other than 0
that is loaded from the same effective address gives the word, and SW then LBU gives bits 31..24 of it under ENDIAN =
big, bits 7..0 under little (rules R41, R235; decision D1, log 1). -/
def Obligations.StoreThenLoadReturnsTheBytes : Prop :=
  ∀ (s : State) (rs0 rs1 r : RegNum) (imm : Half),
    let ea := effectiveAddress s rs0 imm
    let x := readReg s rs1
    ea.toNat % 4 = 0 → Backed s ea 4 → r ≠ 0 →
      ∃ t, exec (.sw rs0 rs1 imm) s = .next t ∧
        (∃ u, exec (.lw rs0 r imm) t = .next u ∧ readReg u r = x) ∧
        (∃ u, exec (.lbu rs0 r imm) t = .next u ∧
          (readReg u r).toNat = if s.cfg.endian = .big then x.toNat / 2 ^ 24 else x.toNat % 2 ^ 8)

/-! ### Control transfers (spec/45_control.md) -/

/-- BEQZ and BNEZ outside a slot test all of `x[rs0]`: taken, the delay slot is next and the target pends, the target
being `pc` plus BRANCH_BASE plus the signed offset times 2^B_SHIFT; not taken, the next word is next.  Nothing else
changes (decisions D4, D6, D21, D34; logs 5, 8, 18). -/
def Obligations.ConditionalBranches : Prop :=
  ∀ (s : State) (rs0 rs1 : RegNum) (imm : Half),
    let target := BitVec.ofInt 32 (s.pc.toNat + s.cfg.branchBase.toNat + imm.toInt * 2 ^ s.cfg.bShift)
    s.pend = none →
      (∃ t, exec (.beqz rs0 rs1 imm) s = .next t ∧ OnlyMoved s t ∧
        if (readReg s rs0).toNat = 0 then Transferred s t target else Advanced s t) ∧
      (∃ t, exec (.bnez rs0 rs1 imm) s = .next t ∧ OnlyMoved s t ∧
        if (readReg s rs0).toNat = 0 then Advanced s t else Transferred s t target)

/-- J and JAL outside a slot: the target is `pc` plus BRANCH_BASE plus the signed offset times 2^J_SHIFT; JAL also
writes `pc` plus LINK_OFFSET to its link register (decisions D4, D5, D19, D20, D21; logs 5, 17, 18; register 0 is D2,
log 2). -/
def Obligations.Jumps : Prop :=
  ∀ (s : State) (offset : BitVec 26),
    let target := BitVec.ofInt 32 (s.pc.toNat + s.cfg.branchBase.toNat + offset.toInt * 2 ^ s.cfg.jShift)
    let link := s.pc + s.cfg.linkOffset
    s.pend = none →
      (∃ t, exec (.j offset) s = .next t ∧ OnlyMoved s t ∧ Transferred s t target) ∧
      (Accepts s s.cfg.linkRegJal link →
        ∃ t, exec (.jal offset) s = .next t ∧ Linked s t s.cfg.linkRegJal link target)

/-- JR and JALR outside a slot: the target is the old `x[rs0]`, all 32 bits; JALR also writes `pc` plus LINK_OFFSET to
its link register, a fixed one or `x[rd]` (decisions D19, D20, D21, D33; logs 8, 17, 18; register 0 is D2, log 2). -/
def Obligations.RegisterJumps : Prop :=
  ∀ (s : State) (rs0 rs1 rd : RegNum),
    let link := s.pc + s.cfg.linkOffset
    s.pend = none →
      (∃ t, exec (.jr rs0 rs1 rd) s = .next t ∧ OnlyMoved s t ∧ Transferred s t (readReg s rs0)) ∧
      (∀ r, s.cfg.linkRegJalr = .reg r ∨ s.cfg.linkRegJalr = .rdField ∧ r = rd → Accepts s r link →
        ∃ t, exec (.jalr rs0 rs1 rd) s = .next t ∧ Linked s t r link (readReg s rs0))

/-! ### Runs and hazards -/

/-- The end of a run: from a state at a J to itself with a NOP in its slot, with x[0] = 0 and no hazard on x[0], two
steps lead back to it; every register, both memories, `pc` and the pending branch are as they were (rule R216,
decision D29, log 24; the hazard is decision D22, log 19). -/
def Obligations.EndOfRunRepeats : Prop :=
  ∀ s : State, atEnd s = true → s.pc.toNat % 4 = 0 → s.resetPin = false → readReg s 0 = 0 →
    (s.cfg.rawDistance = 0 ∨ some 0 ∉ s.recent) →
    ∃ t, step s = .next t ∧
      step t = .next { s with ir := 0, recent := (none :: none :: s.recent).take 3 }

/-- A step faults `rawHazard` exactly when the fetched instruction reads a destination among the latest RAW_DISTANCE:
so when it reads what its predecessor wrote and RAW_DISTANCE is 1 or more, and never when RAW_DISTANCE is 0.  A write
of register 0 counts when it changed register 0 (rule R234; the fault is decision D22, and where it stands and what
counts are the model's choice, log 19). -/
def Obligations.ReaderRightAfterWriterFaults : Prop :=
  (∀ (s : State) (w : Word) (i : Instr), s.resetPin = false → fetch s = .next (w, i) →
    (step s = .fault .rawHazard ↔ ∃ r ∈ sources i, some r ∈ s.recent.take s.cfg.rawDistance)) ∧
  (∀ (s t : State) (w w' : Word) (i j : Instr) (r : RegNum), s.resetPin = false →
    fetch s = .next (w, i) → destination s.cfg i = some r → (r ≠ 0 ∨ t.gpr[0] ≠ s.gpr[0]) → step s = .next t →
    fetch t = .next (w', j) → r ∈ sources j → 1 ≤ s.cfg.rawDistance → step t = .fault .rawHazard) ∧
  (∀ (s : State) (i : Instr), s.cfg.rawDistance = 0 → readsTooSoon i s = false)

/-- An instruction one, two or three places after a writer, that reads what it wrote, faults when RAW_DISTANCE is at
least that many places, whatever stands between: `n` steps complete between the writer's step and the reader's.  A
write of register 0 counts when it changed register 0 (rule R234; decision D22, the model's choice, log 19). -/
def Obligations.ReadersWithinThreePlacesOfAWriterFault : Prop :=
  ∀ (s t u : State) (w w' : Word) (i j : Instr) (r : RegNum) (n : Nat), s.resetPin = false →
    fetch s = .next (w, i) → destination s.cfg i = some r → (r ≠ 0 ∨ t.gpr[0] ≠ s.gpr[0]) → step s = .next t →
    Sys2Proof.core.run n t = .next u → n < 3 → n < s.cfg.rawDistance →
    fetch u = .next (w', j) → r ∈ sources j → step u = .fault .rawHazard
end

