-- ==== Sys2Proof/Laws/Decode.lean ====
section
/-! SUPPORT. The fields of a word built from fields, and a word from its fields (spec/30_encoding.md rules R71 to
R74). -/

namespace Sys2Proof

theorem opField_rrWord (f : BitVec 11) (a b c : RegNum) : opField (rrWord f a b c) = 0 := by
  ext i hi
  simp [opField, rrWord]
  grind

theorem rs0Field_rrWord (f : BitVec 11) (a b c : RegNum) : rs0Field (rrWord f a b c) = a := by
  ext i hi
  simp [rs0Field, rrWord]
  grind

theorem rs1Field_rrWord (f : BitVec 11) (a b c : RegNum) : rs1Field (rrWord f a b c) = b := by
  ext i hi
  simp [rs1Field, rrWord]
  grind

theorem rdField_rrWord (f : BitVec 11) (a b c : RegNum) : rdField (rrWord f a b c) = c := by
  ext i hi
  simp [rdField, rrWord]
  grind

theorem funcField_rrWord (f : BitVec 11) (a b c : RegNum) : funcField (rrWord f a b c) = f := by
  ext i hi
  simp [funcField, rrWord]
  grind

theorem opField_riWord (p : BitVec 6) (a b : RegNum) (v : Half) : opField (riWord p a b v) = p := by
  ext i hi
  simp [opField, riWord]
  grind

theorem rs0Field_riWord (p : BitVec 6) (a b : RegNum) (v : Half) : rs0Field (riWord p a b v) = a := by
  ext i hi
  simp [rs0Field, riWord]
  grind

theorem rs1Field_riWord (p : BitVec 6) (a b : RegNum) (v : Half) : rs1Field (riWord p a b v) = b := by
  ext i hi
  simp [rs1Field, riWord]
  grind

theorem immField_riWord (p : BitVec 6) (a b : RegNum) (v : Half) : immField (riWord p a b v) = v := by
  ext i hi
  simp [immField, riWord]
  grind

theorem opField_jWord (p : BitVec 6) (v : BitVec 26) : opField (jWord p v) = p := by
  ext i hi
  simp [opField, jWord]
  grind

theorem offsetField_jWord (p : BitVec 6) (v : BitVec 26) : offsetField (jWord p v) = v := by
  ext i hi
  simp [offsetField, jWord]
  grind

/-- A word whose `op` is 0 is the RR word of its fields. -/
theorem rrWord_fields {w : Word} (h : opField w = 0) :
    rrWord (funcField w) (rs0Field w) (rs1Field w) (rdField w) = w := by
  rw [rrWord, show (0#6) = opField w from h.symm]
  ext i hi
  simp [opField, rs0Field, rs1Field, rdField, funcField]
  grind

/-- A word is the RI word of its fields. -/
theorem riWord_fields (w : Word) : riWord (opField w) (rs0Field w) (rs1Field w) (immField w) = w := by
  ext i hi
  simp [opField, rs0Field, rs1Field, immField, riWord]
  grind

/-- A word is the J word of its fields. -/
theorem jWord_fields (w : Word) : jWord (opField w) (offsetField w) = w := by
  ext i hi
  simp [opField, offsetField, jWord]
  grind

/-- What the mask of rule R76 leaves of a word gives its `op` and its `func`. -/
theorem fields_of_rrMask {w m : Word} (h : w &&& 0xFC0007FF = m) :
    opField w = opField m ∧ funcField w = funcField m := by
  subst h
  constructor
  · ext i hi
    simp [opField]
    interval_cases i <;> simp
  · ext i hi
    simp [funcField]
    interval_cases i <;> simp

/-- What the mask of rules R77 and R78 leaves of a word gives its `op`. -/
theorem op_of_riMask {w m : Word} (h : w &&& 0xFC000000 = m) : opField w = opField m := by
  subst h
  ext i hi
  simp [opField]
  interval_cases i <;> simp

/-- What the mask of rule R76 leaves of an RR word is its `func`. -/
theorem rrWord_mask (f : BitVec 11) (a b c : RegNum) : rrWord f a b c &&& 0xFC0007FF = f.setWidth 32 := by
  apply BitVec.eq_of_getLsbD_eq
  intro k hk
  rw [BitVec.getLsbD_and, rrWord]
  simp only [BitVec.getLsbD_append, BitVec.getLsbD_setWidth]
  interval_cases k <;> simp

/-- What the mask of rules R77 and R78 leaves of an RI or J word is its `op`. -/
theorem riWord_mask (p : BitVec 6) (a b : RegNum) (v : Half) : riWord p a b v &&& 0xFC000000 = p ++ 0#26 := by
  apply BitVec.eq_of_getLsbD_eq
  intro k hk
  rw [BitVec.getLsbD_and, riWord]
  simp only [BitVec.getLsbD_append]
  interval_cases k <;> simp

theorem jWord_mask (p : BitVec 6) (v : BitVec 26) : jWord p v &&& 0xFC000000 = p ++ 0#26 := by
  apply BitVec.eq_of_getLsbD_eq
  intro k hk
  rw [BitVec.getLsbD_and, jWord]
  simp only [BitVec.getLsbD_append]
  interval_cases k <;> simp

end Sys2Proof
end

