-- ==== Sys2Proof/Laws/State.lean ====
section
/-! SUPPORT. One lemma per field per update of the state, so that no later proof unfolds a record update. -/

namespace Sys2Proof.Machine

@[simp] theorem putReg_gpr (s : State) (r : RegNum) (v : Word) : (putReg s r v).gpr = s.gpr.set r.toNat v r.isLt := rfl
@[simp] theorem putReg_pc (s : State) (r : RegNum) (v : Word) : (putReg s r v).pc = s.pc := rfl
@[simp] theorem putReg_ir (s : State) (r : RegNum) (v : Word) : (putReg s r v).ir = s.ir := rfl
@[simp] theorem putReg_pend (s : State) (r : RegNum) (v : Word) : (putReg s r v).pend = s.pend := rfl
@[simp] theorem putReg_dmem (s : State) (r : RegNum) (v : Word) : (putReg s r v).dmem = s.dmem := rfl
@[simp] theorem putReg_imem (s : State) (r : RegNum) (v : Word) : (putReg s r v).imem = s.imem := rfl
@[simp] theorem putReg_holes (s : State) (r : RegNum) (v : Word) : (putReg s r v).holes = s.holes := rfl
@[simp] theorem putReg_resetPin (s : State) (r : RegNum) (v : Word) : (putReg s r v).resetPin = s.resetPin := rfl
@[simp] theorem putReg_cfg (s : State) (r : RegNum) (v : Word) : (putReg s r v).cfg = s.cfg := rfl
@[simp] theorem putReg_draws (s : State) (r : RegNum) (v : Word) : (putReg s r v).draws = s.draws := rfl
@[simp] theorem putReg_recent (s : State) (r : RegNum) (v : Word) : (putReg s r v).recent = s.recent := rfl

@[simp] theorem advance_gpr (s : State) : (advance s).gpr = s.gpr := rfl
@[simp] theorem advance_pc (s : State) : (advance s).pc = nextPc s := rfl
@[simp] theorem advance_ir (s : State) : (advance s).ir = s.ir := rfl
@[simp] theorem advance_pend (s : State) : (advance s).pend = none := rfl
@[simp] theorem advance_dmem (s : State) : (advance s).dmem = s.dmem := rfl
@[simp] theorem advance_imem (s : State) : (advance s).imem = s.imem := rfl
@[simp] theorem advance_holes (s : State) : (advance s).holes = s.holes := rfl
@[simp] theorem advance_resetPin (s : State) : (advance s).resetPin = s.resetPin := rfl
@[simp] theorem advance_cfg (s : State) : (advance s).cfg = s.cfg := rfl
@[simp] theorem advance_draws (s : State) : (advance s).draws = s.draws := rfl
@[simp] theorem advance_recent (s : State) : (advance s).recent = s.recent := rfl

@[simp] theorem transferTo_gpr (s : State) (t : Word) : (transferTo s t).gpr = s.gpr := rfl
@[simp] theorem transferTo_pc (s : State) (t : Word) : (transferTo s t).pc = nextPc s := rfl
@[simp] theorem transferTo_ir (s : State) (t : Word) : (transferTo s t).ir = s.ir := rfl
@[simp] theorem transferTo_pend (s : State) (t : Word) : (transferTo s t).pend = some t := rfl
@[simp] theorem transferTo_dmem (s : State) (t : Word) : (transferTo s t).dmem = s.dmem := rfl
@[simp] theorem transferTo_imem (s : State) (t : Word) : (transferTo s t).imem = s.imem := rfl
@[simp] theorem transferTo_holes (s : State) (t : Word) : (transferTo s t).holes = s.holes := rfl
@[simp] theorem transferTo_resetPin (s : State) (t : Word) : (transferTo s t).resetPin = s.resetPin := rfl
@[simp] theorem transferTo_cfg (s : State) (t : Word) : (transferTo s t).cfg = s.cfg := rfl
@[simp] theorem transferTo_draws (s : State) (t : Word) : (transferTo s t).draws = s.draws := rfl
@[simp] theorem transferTo_recent (s : State) (t : Word) : (transferTo s t).recent = s.recent := rfl

@[simp] theorem afterDraw_gpr (s : State) : (afterDraw s).gpr = s.gpr := rfl
@[simp] theorem afterDraw_pc (s : State) : (afterDraw s).pc = s.pc := rfl
@[simp] theorem afterDraw_ir (s : State) : (afterDraw s).ir = s.ir := rfl
@[simp] theorem afterDraw_pend (s : State) : (afterDraw s).pend = s.pend := rfl
@[simp] theorem afterDraw_dmem (s : State) : (afterDraw s).dmem = s.dmem := rfl
@[simp] theorem afterDraw_imem (s : State) : (afterDraw s).imem = s.imem := rfl
@[simp] theorem afterDraw_holes (s : State) : (afterDraw s).holes = s.holes := rfl
@[simp] theorem afterDraw_resetPin (s : State) : (afterDraw s).resetPin = s.resetPin := rfl
@[simp] theorem afterDraw_cfg (s : State) : (afterDraw s).cfg = s.cfg := rfl
@[simp] theorem afterDraw_draws (s : State) : (afterDraw s).draws = s.draws + 1 := rfl
@[simp] theorem afterDraw_recent (s : State) : (afterDraw s).recent = s.recent := rfl

@[simp] theorem takeReset_gpr (s : State) : (takeReset s).gpr = Vector.replicate 32 s.cfg.gprReset := rfl
@[simp] theorem takeReset_pc (s : State) : (takeReset s).pc = s.cfg.resetPc := rfl
@[simp] theorem takeReset_ir (s : State) : (takeReset s).ir = s.cfg.resetIr := rfl
@[simp] theorem takeReset_pend (s : State) : (takeReset s).pend = none := rfl
@[simp] theorem takeReset_dmem (s : State) : (takeReset s).dmem = s.dmem := rfl
@[simp] theorem takeReset_imem (s : State) : (takeReset s).imem = s.imem := rfl
@[simp] theorem takeReset_holes (s : State) : (takeReset s).holes = s.holes := rfl
@[simp] theorem takeReset_resetPin (s : State) : (takeReset s).resetPin = s.resetPin := rfl
@[simp] theorem takeReset_cfg (s : State) : (takeReset s).cfg = s.cfg := rfl
@[simp] theorem takeReset_draws (s : State) : (takeReset s).draws = s.draws := rfl
@[simp] theorem takeReset_recent (s : State) : (takeReset s).recent = [] := rfl

@[simp] theorem retire_gpr (w : Word) (i : Instr) (s t : State) : (retire w i s t).gpr = t.gpr := rfl
@[simp] theorem retire_pc (w : Word) (i : Instr) (s t : State) : (retire w i s t).pc = t.pc := rfl
@[simp] theorem retire_ir (w : Word) (i : Instr) (s t : State) : (retire w i s t).ir = w := rfl
@[simp] theorem retire_pend (w : Word) (i : Instr) (s t : State) : (retire w i s t).pend = t.pend := rfl
@[simp] theorem retire_dmem (w : Word) (i : Instr) (s t : State) : (retire w i s t).dmem = t.dmem := rfl
@[simp] theorem retire_imem (w : Word) (i : Instr) (s t : State) : (retire w i s t).imem = t.imem := rfl
@[simp] theorem retire_holes (w : Word) (i : Instr) (s t : State) : (retire w i s t).holes = t.holes := rfl
@[simp] theorem retire_resetPin (w : Word) (i : Instr) (s t : State) : (retire w i s t).resetPin = t.resetPin := rfl
@[simp] theorem retire_cfg (w : Word) (i : Instr) (s t : State) : (retire w i s t).cfg = t.cfg := rfl
@[simp] theorem retire_draws (w : Word) (i : Instr) (s t : State) : (retire w i s t).draws = t.draws := rfl
@[simp] theorem retire_recent (w : Word) (i : Instr) (s t : State) : (retire w i s t).recent = (hazardMark i s t :: s.recent).take 3 := rfl

@[simp] theorem setReset_gpr (s : State) (b : Bool) : (setReset s b).gpr = s.gpr := rfl
@[simp] theorem setReset_pc (s : State) (b : Bool) : (setReset s b).pc = s.pc := rfl
@[simp] theorem setReset_ir (s : State) (b : Bool) : (setReset s b).ir = s.ir := rfl
@[simp] theorem setReset_pend (s : State) (b : Bool) : (setReset s b).pend = s.pend := rfl
@[simp] theorem setReset_dmem (s : State) (b : Bool) : (setReset s b).dmem = s.dmem := rfl
@[simp] theorem setReset_imem (s : State) (b : Bool) : (setReset s b).imem = s.imem := rfl
@[simp] theorem setReset_holes (s : State) (b : Bool) : (setReset s b).holes = s.holes := rfl
@[simp] theorem setReset_resetPin (s : State) (b : Bool) : (setReset s b).resetPin = b := rfl
@[simp] theorem setReset_cfg (s : State) (b : Bool) : (setReset s b).cfg = s.cfg := rfl
@[simp] theorem setReset_draws (s : State) (b : Bool) : (setReset s b).draws = s.draws := rfl
@[simp] theorem setReset_recent (s : State) (b : Bool) : (setReset s b).recent = s.recent := rfl

@[simp] theorem placeInstr_gpr (s : State) (a w : Word) : (placeInstr s a w).gpr = s.gpr := rfl
@[simp] theorem placeInstr_pc (s : State) (a w : Word) : (placeInstr s a w).pc = s.pc := rfl
@[simp] theorem placeInstr_ir (s : State) (a w : Word) : (placeInstr s a w).ir = s.ir := rfl
@[simp] theorem placeInstr_pend (s : State) (a w : Word) : (placeInstr s a w).pend = s.pend := rfl
@[simp] theorem placeInstr_dmem (s : State) (a w : Word) : (placeInstr s a w).dmem = s.dmem := rfl
@[simp] theorem placeInstr_imem (s : State) (a w : Word) : (placeInstr s a w).imem = cellWrite a.toNat w s.imem := rfl
@[simp] theorem placeInstr_holes (s : State) (a w : Word) : (placeInstr s a w).holes = s.holes := rfl
@[simp] theorem placeInstr_resetPin (s : State) (a w : Word) : (placeInstr s a w).resetPin = s.resetPin := rfl
@[simp] theorem placeInstr_cfg (s : State) (a w : Word) : (placeInstr s a w).cfg = s.cfg := rfl
@[simp] theorem placeInstr_draws (s : State) (a w : Word) : (placeInstr s a w).draws = s.draws := rfl
@[simp] theorem placeInstr_recent (s : State) (a w : Word) : (placeInstr s a w).recent = s.recent := rfl

@[simp] theorem busWrite_gpr (s : State) (a : Word) (b : Byte) : (busWrite s a b).gpr = s.gpr := rfl
@[simp] theorem busWrite_pc (s : State) (a : Word) (b : Byte) : (busWrite s a b).pc = s.pc := rfl
@[simp] theorem busWrite_ir (s : State) (a : Word) (b : Byte) : (busWrite s a b).ir = s.ir := rfl
@[simp] theorem busWrite_pend (s : State) (a : Word) (b : Byte) : (busWrite s a b).pend = s.pend := rfl
@[simp] theorem busWrite_dmem (s : State) (a : Word) (b : Byte) : (busWrite s a b).dmem = cellWrite a.toNat b s.dmem := rfl
@[simp] theorem busWrite_imem (s : State) (a : Word) (b : Byte) : (busWrite s a b).imem = s.imem := rfl
@[simp] theorem busWrite_holes (s : State) (a : Word) (b : Byte) : (busWrite s a b).holes = s.holes := rfl
@[simp] theorem busWrite_resetPin (s : State) (a : Word) (b : Byte) : (busWrite s a b).resetPin = s.resetPin := rfl
@[simp] theorem busWrite_cfg (s : State) (a : Word) (b : Byte) : (busWrite s a b).cfg = s.cfg := rfl
@[simp] theorem busWrite_draws (s : State) (a : Word) (b : Byte) : (busWrite s a b).draws = s.draws := rfl
@[simp] theorem busWrite_recent (s : State) (a : Word) (b : Byte) : (busWrite s a b).recent = s.recent := rfl

@[simp] theorem withPolicy_gpr (s : State) (p : R0Policy) : (withPolicy s p).gpr = s.gpr := rfl
@[simp] theorem withPolicy_pc (s : State) (p : R0Policy) : (withPolicy s p).pc = s.pc := rfl
@[simp] theorem withPolicy_ir (s : State) (p : R0Policy) : (withPolicy s p).ir = s.ir := rfl
@[simp] theorem withPolicy_pend (s : State) (p : R0Policy) : (withPolicy s p).pend = s.pend := rfl
@[simp] theorem withPolicy_dmem (s : State) (p : R0Policy) : (withPolicy s p).dmem = s.dmem := rfl
@[simp] theorem withPolicy_imem (s : State) (p : R0Policy) : (withPolicy s p).imem = s.imem := rfl
@[simp] theorem withPolicy_holes (s : State) (p : R0Policy) : (withPolicy s p).holes = s.holes := rfl
@[simp] theorem withPolicy_resetPin (s : State) (p : R0Policy) : (withPolicy s p).resetPin = s.resetPin := rfl
@[simp] theorem withPolicy_cfg (s : State) (p : R0Policy) : (withPolicy s p).cfg = { s.cfg with r0Policy := p } := rfl
@[simp] theorem withPolicy_draws (s : State) (p : R0Policy) : (withPolicy s p).draws = s.draws := rfl
@[simp] theorem withPolicy_recent (s : State) (p : R0Policy) : (withPolicy s p).recent = s.recent := rfl

end Sys2Proof.Machine
end

