-- ==== Sys2Proof/Laws/Memory.lean ====
section
/-! SUPPORT. The laws of the sparse memories: a read after a write, other addresses, and the canonical forms, which
every operation keeps. -/

namespace Sys2Proof.Machine

theorem cellRead_cellWrite_self {β : Type} (k : Nat) (v : β) (m : List (Nat × β)) :
    cellRead k (cellWrite k v m) = some v := by
  induction m with
  | nil => simp [cellWrite, cellRead]
  | cons p m ih =>
    unfold cellWrite
    split
    · simp [cellRead]
    · split
      · simp [cellRead]
      · rename_i h₁ h₂
        simp [cellRead, Ne.symm h₂, ih]

theorem cellRead_cellWrite_other {β : Type} {j k : Nat} (h : j ≠ k) (v : β) (m : List (Nat × β)) :
    cellRead j (cellWrite k v m) = cellRead j m := by
  induction m with
  | nil => simp [cellWrite, cellRead, Ne.symm h]
  | cons p m ih =>
    unfold cellWrite
    split
    · simp [cellRead, Ne.symm h]
    · split
      · rename_i h₁ h₂
        simp [cellRead, Ne.symm h, ← h₂]
      · simp [cellRead, ih]

theorem mem_cellWrite {β : Type} {k : Nat} {v : β} {m : List (Nat × β)} {p : Nat × β}
    (h : p ∈ cellWrite k v m) : p = (k, v) ∨ p ∈ m := by
  induction m with
  | nil => simpa [cellWrite] using h
  | cons q m ih =>
    unfold cellWrite at h
    split at h
    · simpa using h
    · split at h
      · rcases List.mem_cons.1 h with h | h
        · exact .inl h
        · exact .inr (List.mem_cons_of_mem _ h)
      · rcases List.mem_cons.1 h with h | h
        · exact .inr (h ▸ List.mem_cons_self)
        · exact (ih h).imp id (List.mem_cons_of_mem _)

/-- A write keeps the addresses strictly rising. -/
theorem cellWrite_rising {β : Type} (k : Nat) (v : β) {m : List (Nat × β)}
    (h : m.Pairwise fun p q => p.1 < q.1) : (cellWrite k v m).Pairwise fun p q => p.1 < q.1 := by
  induction m with
  | nil => simp [cellWrite]
  | cons p m ih =>
    obtain ⟨hp, hm⟩ := List.pairwise_cons.1 h
    unfold cellWrite
    split
    · rename_i hk
      refine List.pairwise_cons.2 ⟨fun q hq => ?_, h⟩
      rcases List.mem_cons.1 hq with rfl | hq
      · exact hk
      · exact Nat.lt_trans hk (hp q hq)
    · split
      · rename_i _ hk
        exact List.pairwise_cons.2 ⟨fun q hq => hk ▸ hp q hq, hm⟩
      · rename_i h₁ h₂
        refine List.pairwise_cons.2 ⟨fun q hq => ?_, ih hm⟩
        rcases mem_cellWrite hq with rfl | hq
        · simp only
          omega
        · exact hp q hq

/-- Writing a byte keeps the canonical form of the data memory. -/
theorem Memory.wf_cellWrite {m : Memory} (h : Memory.wf m) (a : Word) (b : Byte) :
    Memory.wf (cellWrite a.toNat b m) := by
  refine ⟨cellWrite_rising _ _ h.1, fun p hp => ?_⟩
  rcases mem_cellWrite hp with rfl | hp
  · exact a.isLt
  · exact h.2 p hp

/-- Storing bytes keeps the canonical form of the data memory. -/
theorem Memory.wf_storeBytes {m : Memory} (h : Memory.wf m) (a : Word) (bs : List Byte) :
    Memory.wf (storeBytes m a bs) := by
  induction bs generalizing m a with
  | nil => exact h
  | cons b bs ih => exact ih (Memory.wf_cellWrite h a b) (a + 1)

/-- Placing an instruction word at a multiple of 4 keeps the canonical form of the instruction memory. -/
theorem InstrMemory.wf_cellWrite {m : InstrMemory} (h : InstrMemory.wf m) (a w : Word) (ha : a.toNat % 4 = 0) :
    InstrMemory.wf (cellWrite a.toNat w m) := by
  refine ⟨cellWrite_rising _ _ h.1, fun p hp => ?_⟩
  rcases mem_cellWrite hp with rfl | hp
  · exact ⟨a.isLt, ha⟩
  · exact h.2 p hp

theorem reset_dmem_wf : Memory.wf State.reset.dmem := by decide

theorem reset_imem_wf : InstrMemory.wf State.reset.imem := by decide

/-- Storing bytes leaves every address outside them as it was. -/
theorem cellRead_storeBytes_other (m : Memory) (a b : Word) (bs : List Byte)
    (h : ∀ k < bs.length, b ≠ a + BitVec.ofNat 32 k) : cellRead b.toNat (storeBytes m a bs) = cellRead b.toNat m := by
  induction bs generalizing m a with
  | nil => rfl
  | cons c bs ih =>
    have h0 : b.toNat ≠ a.toNat := fun hc => h 0 (by simp) (by simpa using BitVec.eq_of_toNat_eq hc)
    rw [storeBytes, ih, cellRead_cellWrite_other h0]
    intro k hk hc
    refine h (k + 1) (by simpa using hk) (hc.trans ?_)
    rw [BitVec.add_assoc, BitVec.ofNat_add, BitVec.add_comm 1]
    rfl

/-- Storing bytes puts each of them at its address, as long as they do not wrap onto one another. -/
theorem cellRead_storeBytes_at (m : Memory) (a : Word) (bs : List Byte) (hl : bs.length ≤ 2 ^ 32) (k : Nat)
    (h : k < bs.length) : cellRead (a + BitVec.ofNat 32 k).toNat (storeBytes m a bs) = some bs[k] := by
  induction bs generalizing m a k with
  | nil => simp at h
  | cons c bs ih =>
    rw [storeBytes]
    cases k with
    | zero =>
      rw [cellRead_storeBytes_other]
      · simpa using cellRead_cellWrite_self a.toNat c m
      · intro j hj hc
        simp only [List.length_cons] at hl
        have hc' := congrArg BitVec.toNat hc
        simp only [BitVec.toNat_add, BitVec.toNat_ofNat, show BitVec.toNat (1 : Word) = 1 from rfl] at hc'
        have := a.isLt
        omega
    | succ k =>
      have e : a + BitVec.ofNat 32 (k + 1) = a + 1 + BitVec.ofNat 32 k := by
        rw [BitVec.ofNat_add, BitVec.add_assoc, BitVec.add_comm 1]
        rfl
      rw [e, List.getElem_cons_succ]
      exact ih _ _ (by simp only [List.length_cons] at hl; omega) k (by simpa using h)

/-- A byte read depends on the data memory alone. -/
theorem readByte_congr {s t : State} (h : t.dmem = s.dmem) (a : Word) : readByte t a = readByte s a := by
  simp only [readByte, h]

@[simp] theorem length_splitHalf (e : Endian) (v : Half) : (splitHalf e v).length = 2 := by cases e <;> rfl

@[simp] theorem length_splitWord (e : Endian) (v : Word) : (splitWord e v).length = 4 := by cases e <;> rfl

end Sys2Proof.Machine
end

