-- ==== Sys2Proof/Laws/Ops.lean ====
section
/-! SUPPORT. For each shared operation, once, everything it can do. -/

namespace Sys2Proof.Machine

theorem andThen_next {α β : Type} {o : Result α} {f : α → Result β} {b : β} (h : andThen o f = .next b) :
    ∃ a, o = .next a ∧ f a = .next b := by
  cases o with
  | next a => exact ⟨a, rfl, h⟩
  | fault r => cases h
  | refused r => cases h

theorem andThen_fault {α β : Type} {o : Result α} {f : α → Result β} {r : Fault} (h : andThen o f = .fault r) :
    o = .fault r ∨ ∃ a, o = .next a ∧ f a = .fault r := by
  cases o with
  | next a => exact .inr ⟨a, rfl, h⟩
  | fault q => exact .inl (by simpa [andThen] using h)
  | refused q => cases h

theorem andThen_refused {α β : Type} {o : Result α} {f : α → Result β} {r : Refusal}
    (h : andThen o f = .refused r) : o = .refused r ∨ ∃ a, o = .next a ∧ f a = .refused r := by
  cases o with
  | next a => exact .inr ⟨a, rfl, h⟩
  | fault q => cases h
  | refused q => exact .inl (by simpa [andThen] using h)

/-- A register read depends on the register file and the policy alone. -/
theorem readReg_congr {s t : State} (hg : t.gpr = s.gpr) (hc : t.cfg = s.cfg) (r : RegNum) :
    readReg t r = readReg s r := by
  simp only [readReg, hg, hc]

theorem readReg_putReg_self (s : State) (r : RegNum) (v : Word) : readReg (putReg s r v) r = landed s r v := by
  simp [readReg, landed]

theorem readReg_putReg_other {s : State} {q r : RegNum} (h : q ≠ r) (v : Word) :
    readReg (putReg s r v) q = readReg s q := by
  have hn : r.toNat ≠ q.toNat := fun e => h (BitVec.eq_of_toNat_eq e.symm)
  simp only [readReg, putReg_gpr, putReg_cfg]
  rw [Vector.getElem_set_ne _ _ hn]
  rfl

/-- All that a register write can do when it answers. -/
theorem writeReg_next {s t : State} {r : RegNum} {v : Word} (h : writeReg s r v = .next t) :
    Accepts s r v ∧ (t = putReg s r v ∧ (r = 0 → s.cfg.r0Policy ≠ .hardwired) ∨
      t = s ∧ r = 0 ∧ s.cfg.r0Policy = .hardwired) := by
  unfold writeReg at h
  split at h
  · rename_i hr
    split at h
    · rename_i hp
      split at h
      · cases h
        simp_all
      · cases h
    · cases h
      simp_all
    · cases h
      simp_all
  · cases h
    simp_all

/-- A register write answers exactly when the register takes the value. -/
theorem writeReg_accepts {s : State} {r : RegNum} {v : Word} (h : Accepts s r v) : ∃ t, writeReg s r v = .next t := by
  unfold writeReg
  split
  · split
    · split
      · exact ⟨_, rfl⟩
      · simp_all
    · exact ⟨_, rfl⟩
    · exact ⟨_, rfl⟩
  · exact ⟨_, rfl⟩

/-- The one stop of a register write. -/
theorem writeReg_fault {s : State} {r : RegNum} {v : Word} {f : Fault} (h : writeReg s r v = .fault f) :
    f = .r0Write ∧ r = 0 ∧ s.cfg.r0Policy = .refuse ∧ v ≠ 0 := by
  unfold writeReg at h
  split at h
  · split at h
    · split at h
      · cases h
      · cases h
        simp_all
    · cases h
    · cases h
  · cases h

theorem writeReg_not_refused {s : State} {r : RegNum} {v : Word} {f : Refusal} : writeReg s r v ≠ .refused f := by
  unfold writeReg
  split
  · split
    · split <;> exact fun h => nomatch h
    · exact fun h => nomatch h
    · exact fun h => nomatch h
  · exact fun h => nomatch h

/-- What a register write leaves: the register and nothing else. -/
theorem writeReg_wrote {s t : State} {r : RegNum} {v : Word} (h : writeReg s r v = .next t) : Wrote s t r v := by
  obtain ⟨-, ⟨rfl, -⟩ | ⟨rfl, hr, hp⟩⟩ := writeReg_next h
  · exact ⟨readReg_putReg_self s r v, fun q hq => readReg_putReg_other hq v⟩
  · exact ⟨by simp [readReg, landed, hr, hp], fun q _ => rfl⟩

/-- A register write changes no field but the register file. -/
theorem writeReg_eq {s t : State} {r : RegNum} {v : Word} (h : writeReg s r v = .next t) :
    t = { s with gpr := t.gpr } := by
  obtain ⟨-, ⟨rfl, -⟩ | ⟨rfl, -⟩⟩ := writeReg_next h <;> rfl

/-- A register write keeps every field but the register file. -/
theorem writeReg_fields {s t : State} {r : RegNum} {v : Word} (h : writeReg s r v = .next t) :
    SameMemory s t ∧ SameRest s t ∧ t.draws = s.draws ∧ t.pc = s.pc ∧ t.pend = s.pend := by
  rw [writeReg_eq h]
  exact ⟨⟨rfl, readByte_congr rfl⟩, ⟨rfl, rfl, rfl, rfl, rfl, rfl⟩, rfl, rfl, rfl⟩

theorem nextPc_eq (s : State) : nextPc s = s.pend.getD (s.pc + 4) := by
  unfold nextPc
  split <;> simp_all

/-- Write the destination and advance: the one next state it can answer. -/
theorem finishWith_next {s t : State} {r : RegNum} {v : Word} (h : finishWith s r v = .next t) :
    ∃ u, writeReg s r v = .next u ∧ t = advance u := by
  obtain ⟨u, hu, ht⟩ := andThen_next h
  exact ⟨u, hu, by cases ht; rfl⟩

/-- Write the destination and advance: it answers when the register takes the value, and does nothing else. -/
theorem finishWith_computed {s : State} {r : RegNum} {v : Word} (h : Accepts s r v) :
    ∃ t, finishWith s r v = .next t ∧ Computed s t r v := by
  obtain ⟨t, ht⟩ := writeReg_accepts h
  obtain ⟨hm, hr, hd, hp, hq⟩ := writeReg_fields ht
  refine ⟨advance t, by rw [finishWith, ht]; rfl,
    ⟨(writeReg_wrote ht).value, (writeReg_wrote ht).others⟩, ⟨hm.cells, hm.bytes⟩,
    ⟨hr.imem, hr.holes, hr.resetPin, hr.cfg, hr.ir, hr.recent⟩, hd, ?_, rfl⟩
  simp only [advance_pc, nextPc_eq, hp, hq]

/-- The same after a draw. -/
theorem finishWith_drew {s : State} {r : RegNum} {v : Word} (h : Accepts s r v) :
    ∃ t, finishWith (afterDraw s) r v = .next t ∧ Drew s t r v := by
  obtain ⟨t, ht, hc⟩ := finishWith_computed (s := afterDraw s) h
  obtain ⟨hm, hb⟩ := hc.memory
  obtain ⟨h1, h2, h3, h4, h5, h6⟩ := hc.rest
  exact ⟨t, ht, ⟨hc.register.value, hc.register.others⟩, ⟨hm, hb⟩, ⟨h1, h2, h3, h4, h5, h6⟩, hc.draws,
    hc.next.pc, hc.next.pend⟩

/-- The check before a data access answers exactly when the access is aligned and backed. -/
theorem checkAccess_next {s : State} {a : Word} {n : Nat} :
    checkAccess s a n = .next () ↔ isAligned a n = true ∧ acknowledged s a n = true := by
  unfold checkAccess
  split
  · split <;> simp_all
  · simp_all

/-- `acknowledged` is what `Backed` says. -/
theorem acknowledged_iff (s : State) (a : Word) (n : Nat) : acknowledged s a n = true ↔ Backed s a n := by
  simp [acknowledged, Backed, inHole]

/-- All that a load can do when it answers: the access passed the check, and the register took the value. -/
theorem loadInto_next {s t : State} {a : Word} {n : Nat} {r : RegNum} {v : Word}
    (h : loadInto s a n r v = .next t) :
    (isAligned a n = true ∧ acknowledged s a n = true) ∧ finishWith s r v = .next t := by
  obtain ⟨u, hu, ht⟩ := andThen_next h
  exact ⟨checkAccess_next.1 hu, ht⟩

/-- All that a store can do when it answers. -/
theorem storeAt_next {s t : State} {a : Word} {bs : List Byte} (h : storeAt s a bs = .next t) :
    (isAligned a bs.length = true ∧ acknowledged s a bs.length = true) ∧
      t = advance { s with dmem := storeBytes s.dmem a bs } := by
  obtain ⟨u, hu, ht⟩ := andThen_next h
  exact ⟨checkAccess_next.1 hu, by cases ht; rfl⟩

/-- A store of an aligned, backed access answers, with its bytes stored and nothing else changed. -/
theorem storeAt_stored {s : State} {a : Word} {bs : List Byte} (ha : isAligned a bs.length = true)
    (hb : Backed s a bs.length) (hl : bs.length ≤ 2 ^ 32) : ∃ t, storeAt s a bs = .next t ∧ Stored s t a bs := by
  refine ⟨advance { s with dmem := storeBytes s.dmem a bs }, ?_, fun q => rfl, fun k h => ?_, fun b h => ?_,
    ⟨rfl, rfl, rfl, rfl, rfl, rfl⟩, rfl, ?_, rfl⟩
  · rw [storeAt, checkAccess_next.2 ⟨ha, (acknowledged_iff s a _).2 hb⟩]
    rfl
  · simp only [readByte, advance_dmem, cellRead_storeBytes_at s.dmem a bs hl k h, Option.getD_some]
  · simp only [readByte, advance_dmem, cellRead_storeBytes_other s.dmem a b bs h]
  · simp only [advance_pc, nextPc_eq]

/-- A load of an aligned, backed access is a register write. -/
theorem loadInto_eq {s : State} {a : Word} {n : Nat} (ha : isAligned a n = true) (hb : Backed s a n) (r : RegNum)
    (v : Word) : loadInto s a n r v = finishWith s r v := by
  rw [loadInto, checkAccess_next.2 ⟨ha, (acknowledged_iff s a n).2 hb⟩]
  rfl

/-- A misaligned access faults. -/
theorem checkAccess_misaligned {s : State} {a : Word} {n : Nat} (h : isAligned a n = false) :
    checkAccess s a n = .fault .misalignedData := by
  simp [checkAccess, h]

/-- An aligned access that is not backed is refused. -/
theorem checkAccess_unbacked {s : State} {a : Word} {n : Nat} (ha : isAligned a n = true) (hb : ¬Backed s a n) :
    checkAccess s a n = .refused .neverAcknowledged := by
  simp [checkAccess, ha, mt (acknowledged_iff s a n).1 hb]

/-- All that a control transfer can do when it answers: it stands in no slot. -/
theorem outsideSlot_next {s t : State} {f : Result State} (h : outsideSlot s f = .next t) :
    s.pend = none ∧ f = .next t := by
  unfold outsideSlot at h
  split at h
  · cases h
  · exact ⟨by simp_all, h⟩

end Sys2Proof.Machine
end

