-- ==== Sys2Proof/Laws/Exec.lean ====
section
/-! SUPPORT. What an instruction can do when it answers a next state, once for all 51. -/

namespace Sys2Proof.Machine

/-- The shapes of a completed instruction. -/
inductive Completed (i : Instr) (s t : State) : Prop where
  /-- it computed (with at most one draw) or loaded a word, wrote its destination and advanced -/
  | computed (r : RegNum) (v : Word) (u w : State) (hd : destination s.cfg i = some r) (hc : isControl i = false)
      (ha : ∀ a bs, dataAccess i s ≠ some (.store a bs)) (hu : u = s ∨ u = afterDraw s)
      (hw : writeReg u r v = .next w) (ht : t = advance w)
  /-- it stored bytes and advanced -/
  | stored (a : Word) (bs : List Byte) (hd : destination s.cfg i = none) (hc : isControl i = false)
      (ha : dataAccess i s = some (.store a bs)) (hl : isAligned a bs.length = true)
      (hk : acknowledged s a bs.length = true) (ht : t = advance { s with dmem := storeBytes s.dmem a bs })
  /-- it is a branch that was not taken -/
  | untaken (hd : destination s.cfg i = none) (hc : isControl i = true) (ha : dataAccess i s = none)
      (hp : s.pend = none) (ht : t = advance s)
  /-- it is a control transfer that was taken and links nothing -/
  | taken (a : Word) (hd : destination s.cfg i = none) (hc : isControl i = true) (ha : dataAccess i s = none)
      (hp : s.pend = none) (ht : t = transferTo s a)
  /-- it is a control transfer that was taken and wrote the return address -/
  | linked (a : Word) (r : RegNum) (w : State) (hd : destination s.cfg i = some r) (hc : isControl i = true)
      (ha : dataAccess i s = none) (hp : s.pend = none) (hw : writeReg s r (linkValue s) = .next w)
      (ht : t = transferTo w a)

theorem completed_of_finishWith {i : Instr} {s t : State} {r : RegNum} {v : Word}
    (h : finishWith s r v = .next t) (hd : destination s.cfg i = some r) (hc : isControl i = false)
    (ha : ∀ a bs, dataAccess i s ≠ some (.store a bs)) : Completed i s t := by
  obtain ⟨w, hw, ht⟩ := finishWith_next h
  exact .computed r v s w hd hc ha (.inl rfl) hw ht

theorem completed_of_draw {i : Instr} {s t : State} {r : RegNum} {v : Word}
    (h : finishWith (afterDraw s) r v = .next t) (hd : destination s.cfg i = some r) (hc : isControl i = false)
    (ha : ∀ a bs, dataAccess i s ≠ some (.store a bs)) : Completed i s t := by
  obtain ⟨w, hw, ht⟩ := finishWith_next h
  exact .computed r v _ w hd hc ha (.inr rfl) hw ht

theorem completed_of_load {i : Instr} {s t : State} {a : Word} {n : Nat} {r : RegNum} {v : Word}
    (h : loadInto s a n r v = .next t) (hd : destination s.cfg i = some r) (hc : isControl i = false)
    (ha : ∀ a bs, dataAccess i s ≠ some (.store a bs)) : Completed i s t :=
  completed_of_finishWith (loadInto_next h).2 hd hc ha

theorem completed_of_store {i : Instr} {s t : State} {a : Word} {bs : List Byte}
    (h : storeAt s a bs = .next t) (hd : destination s.cfg i = none) (hc : isControl i = false)
    (ha : dataAccess i s = some (.store a bs)) : Completed i s t := by
  obtain ⟨⟨hl, hk⟩, ht⟩ := storeAt_next h
  exact .stored a bs hd hc ha hl hk ht

theorem completed_of_branch {i : Instr} {s t : State} {a : Word} {p q : Prop} [Decidable p] [Decidable q]
    (h : outsideSlot s (.next (if p then transferTo s a else if q then advance s else transferTo s a)) = .next t)
    (hd : destination s.cfg i = none) (hc : isControl i = true) (ha : dataAccess i s = none) :
    Completed i s t := by
  obtain ⟨hp, ht⟩ := outsideSlot_next h
  cases ht
  split
  · exact .taken a hd hc ha hp rfl
  · split
    · exact .untaken hd hc ha hp rfl
    · exact .taken a hd hc ha hp rfl

theorem completed_of_jump {i : Instr} {s t : State} {a : Word}
    (h : outsideSlot s (.next (transferTo s a)) = .next t)
    (hd : destination s.cfg i = none) (hc : isControl i = true) (ha : dataAccess i s = none) :
    Completed i s t := by
  obtain ⟨hp, ht⟩ := outsideSlot_next h
  cases ht
  exact .taken a hd hc ha hp rfl

theorem completed_of_link {i : Instr} {s t : State} {a : Word} {r : RegNum}
    (h : outsideSlot s (andThen (writeReg s r (linkValue s)) fun w => .next (transferTo w a)) = .next t)
    (hd : destination s.cfg i = some r) (hc : isControl i = true) (ha : dataAccess i s = none) :
    Completed i s t := by
  obtain ⟨hp, h⟩ := outsideSlot_next h
  obtain ⟨w, hw, ht⟩ := andThen_next h
  cases ht
  exact .linked a r w hd hc ha hp hw rfl

/-- Everything an instruction can do when it answers a next state. -/
theorem exec_completed {i : Instr} {s t : State} (h : exec i s = .next t) : Completed i s t := by
  cases i
  case div rs0 rs1 rd =>
    simp only [exec, execDiv] at h
    split at h
    · exact completed_of_draw h rfl rfl (by simp [dataAccess])
    · split at h
      · exact completed_of_draw h rfl rfl (by simp [dataAccess])
      · exact completed_of_finishWith h rfl rfl (by simp [dataAccess])
  case divu rs0 rs1 rd =>
    simp only [exec, execDivu] at h
    split at h
    · exact completed_of_draw h rfl rfl (by simp [dataAccess])
    · exact completed_of_finishWith h rfl rfl (by simp [dataAccess])
  case beqz rs0 rs1 imm =>
    refine completed_of_branch (p := isZero (readReg s rs0) = true) (q := True) (a := branchTarget s imm) ?_ rfl rfl rfl
    simpa [exec, execBeqz] using h
  case bnez rs0 rs1 imm =>
    refine completed_of_branch (p := False) (q := isZero (readReg s rs0) = true) (a := branchTarget s imm) ?_ rfl rfl rfl
    simpa [exec, execBnez] using h
  case j offset => exact completed_of_jump h rfl rfl rfl
  case jr rs0 rs1 rd => exact completed_of_jump h rfl rfl rfl
  case jal offset =>
    refine completed_of_link (a := jumpTarget s offset) h rfl rfl rfl
  case jalr rs0 rs1 rd =>
    refine completed_of_link (a := readReg s rs0) h rfl rfl rfl
  case sb => exact completed_of_store h rfl rfl rfl
  case sh => exact completed_of_store h rfl rfl rfl
  case sw => exact completed_of_store h rfl rfl rfl
  case lb => exact completed_of_load h rfl rfl (by simp [dataAccess])
  case lbu => exact completed_of_load h rfl rfl (by simp [dataAccess])
  case lh => exact completed_of_load h rfl rfl (by simp [dataAccess])
  case lhu => exact completed_of_load h rfl rfl (by simp [dataAccess])
  case lw => exact completed_of_load h rfl rfl (by simp [dataAccess])
  all_goals exact completed_of_finishWith h rfl rfl (by simp [dataAccess])

end Sys2Proof.Machine
end

