-- ==== Sys2Proof/Laws/PerInstr.lean ====
section
/-! SUPPORT. One fact per instruction: the word the encoder writes matches the instruction's row of
spec/opcode_table.json (the columns "mask" and "match" of spec/30_encoding.md rules R76 to R78). -/

namespace Sys2Proof.Laws

/-- A mask works field by field. -/
theorem and_fields (p p' : BitVec 6) (a b c a' b' c' : RegNum) (f f' : BitVec 11) :
    ((p ++ a ++ b ++ c ++ f : Word) &&& (p' ++ a' ++ b' ++ c' ++ f' : Word)) =
      (p &&& p') ++ (a &&& a') ++ (b &&& b') ++ (c &&& c') ++ (f &&& f') := by
  ext i hi
  simp
  grind

/-- The mask of the RR rows keeps `op` and `func`. -/
theorem mask_rrWord (f : BitVec 11) (a b c : RegNum) : rrWord f a b c &&& 0xFC0007FF = rrWord f 0 0 0 := by
  have h := and_fields 0#6 0x3F#6 a b c 0#5 0#5 0#5 f (BitVec.allOnes 11)
  rw [BitVec.and_allOnes, BitVec.and_zero, BitVec.and_zero, BitVec.and_zero] at h
  exact h

/-- A mask works on `op` and on the rest of a word. -/
theorem and_op (p p' : BitVec 6) (v v' : BitVec 26) :
    ((p ++ v : Word) &&& (p' ++ v' : Word)) = (p &&& p') ++ (v &&& v') := by
  ext i hi
  simp
  grind

/-- The mask of the J rows keeps `op`. -/
theorem mask_jWord (p : BitVec 6) (v : BitVec 26) : jWord p v &&& 0xFC000000 = jWord p 0 := by
  have h := and_op p (BitVec.allOnes 6) v 0#26
  rw [BitVec.and_allOnes, BitVec.and_zero] at h
  exact h

/-- The RI layout is the J layout with its low part divided. -/
theorem riWord_eq_jWord (p : BitVec 6) (a b : RegNum) (v : Half) : riWord p a b v = jWord p (a ++ b ++ v) := by
  ext i hi
  simp [riWord, jWord]
  grind

/-- The mask of the RI and B rows keeps `op`. -/
theorem mask_riWord (p : BitVec 6) (a b : RegNum) (v : Half) : riWord p a b v &&& 0xFC000000 = jWord p 0 := by
  rw [riWord_eq_jWord, mask_jWord]

/-- The encoder's word, under its row's mask, is its row's match. -/
def OpcodeRow.Statement (i : Instr) : Prop := encode i &&& maskOf i = matchOf i

theorem OpcodeRow.sll (rs0 rs1 rd : RegNum) : OpcodeRow.Statement (.sll rs0 rs1 rd) :=
  (mask_rrWord _ _ _ _).trans rfl

theorem OpcodeRow.srl (rs0 rs1 rd : RegNum) : OpcodeRow.Statement (.srl rs0 rs1 rd) :=
  (mask_rrWord _ _ _ _).trans rfl

theorem OpcodeRow.sra (rs0 rs1 rd : RegNum) : OpcodeRow.Statement (.sra rs0 rs1 rd) :=
  (mask_rrWord _ _ _ _).trans rfl

theorem OpcodeRow.jr (rs0 rs1 rd : RegNum) : OpcodeRow.Statement (.jr rs0 rs1 rd) :=
  (mask_rrWord _ _ _ _).trans rfl

theorem OpcodeRow.jalr (rs0 rs1 rd : RegNum) : OpcodeRow.Statement (.jalr rs0 rs1 rd) :=
  (mask_rrWord _ _ _ _).trans rfl

theorem OpcodeRow.mult (rs0 rs1 rd : RegNum) : OpcodeRow.Statement (.mult rs0 rs1 rd) :=
  (mask_rrWord _ _ _ _).trans rfl

theorem OpcodeRow.multu (rs0 rs1 rd : RegNum) : OpcodeRow.Statement (.multu rs0 rs1 rd) :=
  (mask_rrWord _ _ _ _).trans rfl

theorem OpcodeRow.div (rs0 rs1 rd : RegNum) : OpcodeRow.Statement (.div rs0 rs1 rd) :=
  (mask_rrWord _ _ _ _).trans rfl

theorem OpcodeRow.divu (rs0 rs1 rd : RegNum) : OpcodeRow.Statement (.divu rs0 rs1 rd) :=
  (mask_rrWord _ _ _ _).trans rfl

theorem OpcodeRow.add (rs0 rs1 rd : RegNum) : OpcodeRow.Statement (.add rs0 rs1 rd) :=
  (mask_rrWord _ _ _ _).trans rfl

theorem OpcodeRow.addu (rs0 rs1 rd : RegNum) : OpcodeRow.Statement (.addu rs0 rs1 rd) :=
  (mask_rrWord _ _ _ _).trans rfl

theorem OpcodeRow.sub (rs0 rs1 rd : RegNum) : OpcodeRow.Statement (.sub rs0 rs1 rd) :=
  (mask_rrWord _ _ _ _).trans rfl

theorem OpcodeRow.subu (rs0 rs1 rd : RegNum) : OpcodeRow.Statement (.subu rs0 rs1 rd) :=
  (mask_rrWord _ _ _ _).trans rfl

theorem OpcodeRow.and (rs0 rs1 rd : RegNum) : OpcodeRow.Statement (.and rs0 rs1 rd) :=
  (mask_rrWord _ _ _ _).trans rfl

theorem OpcodeRow.or (rs0 rs1 rd : RegNum) : OpcodeRow.Statement (.or rs0 rs1 rd) :=
  (mask_rrWord _ _ _ _).trans rfl

theorem OpcodeRow.xor (rs0 rs1 rd : RegNum) : OpcodeRow.Statement (.xor rs0 rs1 rd) :=
  (mask_rrWord _ _ _ _).trans rfl

theorem OpcodeRow.slt (rs0 rs1 rd : RegNum) : OpcodeRow.Statement (.slt rs0 rs1 rd) :=
  (mask_rrWord _ _ _ _).trans rfl

theorem OpcodeRow.sgt (rs0 rs1 rd : RegNum) : OpcodeRow.Statement (.sgt rs0 rs1 rd) :=
  (mask_rrWord _ _ _ _).trans rfl

theorem OpcodeRow.sle (rs0 rs1 rd : RegNum) : OpcodeRow.Statement (.sle rs0 rs1 rd) :=
  (mask_rrWord _ _ _ _).trans rfl

theorem OpcodeRow.sge (rs0 rs1 rd : RegNum) : OpcodeRow.Statement (.sge rs0 rs1 rd) :=
  (mask_rrWord _ _ _ _).trans rfl

theorem OpcodeRow.seq (rs0 rs1 rd : RegNum) : OpcodeRow.Statement (.seq rs0 rs1 rd) :=
  (mask_rrWord _ _ _ _).trans rfl

theorem OpcodeRow.sne (rs0 rs1 rd : RegNum) : OpcodeRow.Statement (.sne rs0 rs1 rd) :=
  (mask_rrWord _ _ _ _).trans rfl

theorem OpcodeRow.j (offset : BitVec 26) : OpcodeRow.Statement (.j offset) :=
  (mask_jWord _ _).trans rfl

theorem OpcodeRow.jal (offset : BitVec 26) : OpcodeRow.Statement (.jal offset) :=
  (mask_jWord _ _).trans rfl

theorem OpcodeRow.beqz (rs0 rs1 : RegNum) (imm : Half) : OpcodeRow.Statement (.beqz rs0 rs1 imm) :=
  (mask_riWord _ _ _ _).trans rfl

theorem OpcodeRow.bnez (rs0 rs1 : RegNum) (imm : Half) : OpcodeRow.Statement (.bnez rs0 rs1 imm) :=
  (mask_riWord _ _ _ _).trans rfl

theorem OpcodeRow.addi (rs0 rs1 : RegNum) (imm : Half) : OpcodeRow.Statement (.addi rs0 rs1 imm) :=
  (mask_riWord _ _ _ _).trans rfl

theorem OpcodeRow.addui (rs0 rs1 : RegNum) (imm : Half) : OpcodeRow.Statement (.addui rs0 rs1 imm) :=
  (mask_riWord _ _ _ _).trans rfl

theorem OpcodeRow.subi (rs0 rs1 : RegNum) (imm : Half) : OpcodeRow.Statement (.subi rs0 rs1 imm) :=
  (mask_riWord _ _ _ _).trans rfl

theorem OpcodeRow.subui (rs0 rs1 : RegNum) (imm : Half) : OpcodeRow.Statement (.subui rs0 rs1 imm) :=
  (mask_riWord _ _ _ _).trans rfl

theorem OpcodeRow.andi (rs0 rs1 : RegNum) (imm : Half) : OpcodeRow.Statement (.andi rs0 rs1 imm) :=
  (mask_riWord _ _ _ _).trans rfl

theorem OpcodeRow.ori (rs0 rs1 : RegNum) (imm : Half) : OpcodeRow.Statement (.ori rs0 rs1 imm) :=
  (mask_riWord _ _ _ _).trans rfl

theorem OpcodeRow.xori (rs0 rs1 : RegNum) (imm : Half) : OpcodeRow.Statement (.xori rs0 rs1 imm) :=
  (mask_riWord _ _ _ _).trans rfl

theorem OpcodeRow.lhi (rs0 rs1 : RegNum) (imm : Half) : OpcodeRow.Statement (.lhi rs0 rs1 imm) :=
  (mask_riWord _ _ _ _).trans rfl

theorem OpcodeRow.slli (rs0 rs1 : RegNum) (imm : Half) : OpcodeRow.Statement (.slli rs0 rs1 imm) :=
  (mask_riWord _ _ _ _).trans rfl

theorem OpcodeRow.srli (rs0 rs1 : RegNum) (imm : Half) : OpcodeRow.Statement (.srli rs0 rs1 imm) :=
  (mask_riWord _ _ _ _).trans rfl

theorem OpcodeRow.srai (rs0 rs1 : RegNum) (imm : Half) : OpcodeRow.Statement (.srai rs0 rs1 imm) :=
  (mask_riWord _ _ _ _).trans rfl

theorem OpcodeRow.slti (rs0 rs1 : RegNum) (imm : Half) : OpcodeRow.Statement (.slti rs0 rs1 imm) :=
  (mask_riWord _ _ _ _).trans rfl

theorem OpcodeRow.sgti (rs0 rs1 : RegNum) (imm : Half) : OpcodeRow.Statement (.sgti rs0 rs1 imm) :=
  (mask_riWord _ _ _ _).trans rfl

theorem OpcodeRow.slei (rs0 rs1 : RegNum) (imm : Half) : OpcodeRow.Statement (.slei rs0 rs1 imm) :=
  (mask_riWord _ _ _ _).trans rfl

theorem OpcodeRow.sgei (rs0 rs1 : RegNum) (imm : Half) : OpcodeRow.Statement (.sgei rs0 rs1 imm) :=
  (mask_riWord _ _ _ _).trans rfl

theorem OpcodeRow.seqi (rs0 rs1 : RegNum) (imm : Half) : OpcodeRow.Statement (.seqi rs0 rs1 imm) :=
  (mask_riWord _ _ _ _).trans rfl

theorem OpcodeRow.snei (rs0 rs1 : RegNum) (imm : Half) : OpcodeRow.Statement (.snei rs0 rs1 imm) :=
  (mask_riWord _ _ _ _).trans rfl

theorem OpcodeRow.lb (rs0 rs1 : RegNum) (imm : Half) : OpcodeRow.Statement (.lb rs0 rs1 imm) :=
  (mask_riWord _ _ _ _).trans rfl

theorem OpcodeRow.lh (rs0 rs1 : RegNum) (imm : Half) : OpcodeRow.Statement (.lh rs0 rs1 imm) :=
  (mask_riWord _ _ _ _).trans rfl

theorem OpcodeRow.lw (rs0 rs1 : RegNum) (imm : Half) : OpcodeRow.Statement (.lw rs0 rs1 imm) :=
  (mask_riWord _ _ _ _).trans rfl

theorem OpcodeRow.lbu (rs0 rs1 : RegNum) (imm : Half) : OpcodeRow.Statement (.lbu rs0 rs1 imm) :=
  (mask_riWord _ _ _ _).trans rfl

theorem OpcodeRow.lhu (rs0 rs1 : RegNum) (imm : Half) : OpcodeRow.Statement (.lhu rs0 rs1 imm) :=
  (mask_riWord _ _ _ _).trans rfl

theorem OpcodeRow.sb (rs0 rs1 : RegNum) (imm : Half) : OpcodeRow.Statement (.sb rs0 rs1 imm) :=
  (mask_riWord _ _ _ _).trans rfl

theorem OpcodeRow.sh (rs0 rs1 : RegNum) (imm : Half) : OpcodeRow.Statement (.sh rs0 rs1 imm) :=
  (mask_riWord _ _ _ _).trans rfl

theorem OpcodeRow.sw (rs0 rs1 : RegNum) (imm : Half) : OpcodeRow.Statement (.sw rs0 rs1 imm) :=
  (mask_riWord _ _ _ _).trans rfl

end Sys2Proof.Laws
end

