-- ==== Sys2Proof/Laws/Step.lean ====
section
/-! SUPPORT. What one step can do. -/

namespace Sys2Proof.Machine

/-- All that a fetch can do when it answers. -/
theorem fetch_next {s : State} {w : Word} {i : Instr} (h : fetch s = .next (w, i)) :
    isAligned s.pc 4 = true ∧ cellRead s.pc.toNat s.imem = some w ∧ decode w = .ok i := by
  unfold fetch at h
  split at h
  · split at h
    · cases h
    · split at h
      · cases h
        exact ⟨by assumption, by assumption, by assumption⟩
      · cases h
  · cases h

/-- All that a step can do when it answers: the reset step, or one instruction fetched, decoded, executed and
retired. -/
theorem step_next {s t : State} (h : step s = .next t) :
    (s.resetPin = true ∧ t = takeReset s) ∨
      ∃ w i u, s.resetPin = false ∧ isAligned s.pc 4 = true ∧ cellRead s.pc.toNat s.imem = some w ∧
        decode w = .ok i ∧ readsTooSoon i s = false ∧ exec i s = .next u ∧ t = retire w i s u := by
  unfold step at h
  split at h
  · rename_i hr
    cases h
    exact .inl ⟨hr, rfl⟩
  · rename_i hr
    obtain ⟨⟨w, i⟩, hf, h⟩ := andThen_next h
    obtain ⟨ha, hw, hd⟩ := fetch_next hf
    simp only at h
    split at h
    · cases h
    · rename_i hz
      obtain ⟨u, hu, ht⟩ := andThen_next h
      cases ht
      exact .inr ⟨w, i, u, by simpa using hr, ha, hw, hd, by simpa using hz, hu, rfl⟩

/-- The instruction reads too soon exactly when it reads a destination among the latest RAW_DISTANCE. -/
theorem readsTooSoon_iff (i : Instr) (s : State) :
    readsTooSoon i s = true ↔ ∃ r ∈ sources i, some r ∈ s.recent.take s.cfg.rawDistance := by
  simp [readsTooSoon]

/-- A step that answers has executed and retired the instruction that was fetched. -/
theorem step_retires {s t : State} {w : Word} {i : Instr} (hr : s.resetPin = false) (hf : fetch s = .next (w, i))
    (h : step s = .next t) : ∃ u, exec i s = .next u ∧ t = retire w i s u := by
  obtain ⟨-, hw, hd⟩ := fetch_next hf
  rcases step_next h with ⟨hr', -⟩ | ⟨w', i', u, -, -, hw', hd', -, hu, rfl⟩
  · rw [hr] at hr'
    cases hr'
  · obtain rfl : w' = w := Option.some.inj (hw'.symm.trans hw)
    obtain rfl : i' = i := Except.ok.inj (hd'.symm.trans hd)
    exact ⟨u, hu, rfl⟩

end Sys2Proof.Machine
end

