-- ==== Sys2Proof/Laws/Words.lean ====
section
/-! SUPPORT. The operations on words as arithmetic on numbers: sums, extensions, shifts, the quotient. -/

namespace Sys2Proof.Machine

theorem eq_ofInt_toNat (a : Word) : a = BitVec.ofInt 32 a.toNat := by simp

theorem add_eq_ofInt {a b : Word} {x y : Int} (ha : a = BitVec.ofInt 32 x) (hb : b = BitVec.ofInt 32 y) :
    a + b = BitVec.ofInt 32 (x + y) := by
  rw [BitVec.ofInt_add, ← ha, ← hb]

theorem sub_eq_ofInt {a b : Word} {x y : Int} (ha : a = BitVec.ofInt 32 x) (hb : b = BitVec.ofInt 32 y) :
    a - b = BitVec.ofInt 32 (x - y) := by
  rw [Int.sub_eq_add_neg, BitVec.ofInt_add, BitVec.ofInt_neg, ← ha, ← hb, BitVec.sub_eq_add_neg]

theorem sext_eq_ofInt {n : Nat} (v : BitVec n) : sext v = BitVec.ofInt 32 v.toInt := rfl

theorem zext_eq_ofNat {n : Nat} (v : BitVec n) : zext v = BitVec.ofNat 32 v.toNat := by
  apply BitVec.eq_of_toNat_eq
  simp [zext]

/-- Sign extension to at least as many bits keeps the number. -/
theorem sext_toInt {n : Nat} (h : n ≤ 32) (v : BitVec n) : (sext v).toInt = v.toInt := by
  simp [sext, BitVec.toInt_signExtend_of_le h]

theorem shiftLeft_eq_ofNat (a : Word) (n : Nat) : a <<< n = BitVec.ofNat 32 (a.toNat * 2 ^ n) := by
  apply BitVec.eq_of_toNat_eq
  simp [Nat.shiftLeft_eq]

theorem ushiftRight_eq_ofNat (a : Word) (n : Nat) : a >>> n = BitVec.ofNat 32 (a.toNat / 2 ^ n) := by
  apply BitVec.eq_of_toNat_eq
  simp only [BitVec.toNat_ushiftRight, Nat.shiftRight_eq_div_pow, BitVec.toNat_ofNat]
  exact (Nat.mod_eq_of_lt (Nat.lt_of_le_of_lt (Nat.div_le_self _ _) a.isLt)).symm

theorem sshiftRight_eq_ofInt (a : Word) (n : Nat) : a.sshiftRight n = BitVec.ofInt 32 (a.toInt / 2 ^ n) := by
  simp [BitVec.sshiftRight, Int.shiftRight_eq_div_pow]

/-- The quotient rounded toward zero by its sign and its size. -/
theorem tdiv_eq_sign_mul (a b : Int) : Int.tdiv a b = a.sign * b.sign * (a.natAbs / b.natAbs : Nat) := by
  have h := Int.sign_mul_natAbs (Int.tdiv a b)
  rw [Int.natAbs_tdiv, Int.sign_tdiv] at h
  rw [← h]
  split
  · rename_i h'
    simp [Nat.div_eq_of_lt h']
  · rfl

theorem toNat_append_eq {m n : Nat} (x : BitVec m) (y : BitVec n) : (x ++ y).toNat = x.toNat * 2 ^ n + y.toNat := by
  rw [BitVec.toNat_append, ← Nat.shiftLeft_add_eq_or_of_lt y.isLt, Nat.shiftLeft_eq]

/-- The byte of a word from bit `k` up. -/
theorem byteOf_eq_ofNat (x : Word) (k : Nat) : x.extractLsb' k 8 = BitVec.ofNat 8 (x.toNat / 2 ^ k) := by
  apply BitVec.eq_of_toNat_eq
  simp [Nat.shiftRight_eq_div_pow]

/-- Joining the bytes of a word gives the word, in each byte order. -/
theorem joinWord_bytes (e : Endian) (v : Word) : ∃ b0 b1 b2 b3, splitWord e v = [b0, b1, b2, b3] ∧
    joinWord e b0 b1 b2 b3 = v := by
  cases e
  · refine ⟨_, _, _, _, rfl, ?_⟩
    ext i hi
    simp [joinWord]
    grind
  · refine ⟨_, _, _, _, rfl, ?_⟩
    ext i hi
    simp [joinWord]
    grind

end Sys2Proof.Machine
end

