-- ==== Sys2Proof/Tests/Slice0.lean ====
section
/-! SUPPORT. Tests.  The words and the expected results are those of spec/95_test_vectors.md (sections 2 and 3), which
derives them by hand from the rules; none is this model's own answer.  (The JR and JALR vectors name register 1 where
the spec's name register 5.)  After them, a concrete state and operands that meet the hypotheses of each obligation that
has any, clause by clause. -/

namespace Sys2Proof.Tests

open Sys2Proof Sys2Proof.Machine

/-! ### Helpers -/

/-- The reset state with two general registers set, `x[3]` holding 0xDEADBEEF, and the word next to be fetched. -/
def load (w x1 x2 : Word) : State :=
  let s := { State.reset with gpr := ((State.reset.gpr.set 1 x1).set 2 x2).set 3 0xDEADBEEF }
  s.withFetchWord 32 w.toNat

/-- The data memory of the load and store vectors (spec/95 section 3.5). -/
def bytes : Memory :=
  [(0xFFC, 0xAA), (0xFFD, 0xBB), (0xFFE, 0xCC), (0xFFF, 0xDD), (0x1000, 0x80), (0x1001, 0x7F), (0x1002, 0xFE),
    (0x1003, 0x01), (0x1004, 0x11), (0x1005, 0x22), (0x1006, 0x33), (0x1007, 0x44)]

/-- `load` with that data memory and a byte order. -/
def loadMem (e : Endian) (w x1 x2 : Word) : State :=
  let s := load w x1 x2
  { s with dmem := bytes, cfg := { s.cfg with endian := e } }

/-- `load` at an address with a pending branch. -/
def loadAt (pc : Word) (pend : Option Word) (w x1 : Word) : State :=
  let s := { State.reset with pc := pc, pend := pend, gpr := State.reset.gpr.set 1 x1 }
  s.withFetchWord 32 w.toNat

/-- A register after a step. -/
def regOf (o : Result State) (r : RegNum) : Option Word :=
  match o with
  | .next t => some (readReg t r)
  | .fault _ => none
  | .refused _ => none

/-- `pc` and the pending branch after a step. -/
def pcOf (o : Result State) : Option (Word × Option Word) :=
  match o with
  | .next t => some (t.pc, t.pend)
  | .fault _ => none
  | .refused _ => none

/-- The fault of a step. -/
def faultOf (o : Result State) : Option Fault :=
  match o with
  | .next _ => none
  | .fault f => some f
  | .refused _ => none

/-- The refusal of a step. -/
def refusalOf (o : Result State) : Option Refusal :=
  match o with
  | .next _ => none
  | .fault _ => none
  | .refused r => some r

/-- The data memory after a step, as bytes from an address up. -/
def bytesOf (o : Result State) (a : Word) (n : Nat) : Option (List (Option Byte)) :=
  match o with
  | .next t => some ((List.range n).map fun k => cellRead (a.toNat + k) t.dmem)
  | .fault _ => none
  | .refused _ => none

/-! ### Well-formedness: an ill-formed term for each check (rule R80, rule R6) -/

theorem test_jr_field_rs1_is_refused : Instr.assembled (.jr 1 2 0) = false := by decide
theorem test_jr_field_rd_is_refused : Instr.assembled (.jr 1 0 3) = false := by decide
theorem test_jalr_field_rs1_is_refused : Instr.assembled (.jalr 1 2 0) = false := by decide
theorem test_jalr_field_rd_is_refused : Instr.assembled (.jalr 1 0 3) = false := by decide
theorem test_beqz_field_rs1_is_refused : Instr.assembled (.beqz 1 2 8) = false := by decide
theorem test_bnez_field_rs1_is_refused : Instr.assembled (.bnez 1 2 8) = false := by decide
theorem test_lhi_field_rs0_is_refused : Instr.assembled (.lhi 1 2 8) = false := by decide
theorem test_slli_amount_32_is_refused : Instr.assembled (.slli 1 2 32) = false := by decide
theorem test_srli_amount_32_is_refused : Instr.assembled (.srli 1 2 32) = false := by decide
theorem test_srai_amount_32_is_refused : Instr.assembled (.srai 1 2 32) = false := by decide
theorem test_shift_amount_31_is_assembled : Instr.assembled (.slli 1 2 31) = true := by decide

theorem test_rawDistance_4_is_refused : Config.wellFormed { Config.default with rawDistance := 4 } = false :=
  by decide
theorem test_jShift_7_is_refused : Config.wellFormed { Config.default with jShift := 7 } = false := by decide
theorem test_bShift_17_is_refused : Config.wellFormed { Config.default with bShift := 17 } = false := by decide
theorem test_shamtBits_17_is_refused : Config.wellFormed { Config.default with shamtBits := 17 } = false :=
  by decide
theorem test_defaults_are_wellFormed : Config.wellFormed Config.default = true := by decide

/-! ### Decoding: every instruction's word, bit by bit (spec/95 section 2.1) -/

theorem test_decode_sll : decode 0b000000_00001_00010_00011_00000000000 = .ok (.sll 1 2 3) := by decide
theorem test_decode_srl : decode 0b000000_00001_00010_00011_00000000010 = .ok (.srl 1 2 3) := by decide
theorem test_decode_sra : decode 0b000000_00001_00010_00011_00000000011 = .ok (.sra 1 2 3) := by decide
theorem test_decode_jr : decode 0b000000_00001_00010_00011_00000001000 = .ok (.jr 1 2 3) := by decide
theorem test_decode_jalr : decode 0b000000_00001_00010_00011_00000001001 = .ok (.jalr 1 2 3) := by decide
theorem test_decode_mult : decode 0b000000_00001_00010_00011_00000011000 = .ok (.mult 1 2 3) := by decide
theorem test_decode_multu : decode 0b000000_00001_00010_00011_00000011001 = .ok (.multu 1 2 3) := by decide
theorem test_decode_div : decode 0b000000_00001_00010_00011_00000011010 = .ok (.div 1 2 3) := by decide
theorem test_decode_divu : decode 0b000000_00001_00010_00011_00000011011 = .ok (.divu 1 2 3) := by decide
theorem test_decode_add : decode 0b000000_00001_00010_00011_00000100000 = .ok (.add 1 2 3) := by decide
theorem test_decode_addu : decode 0b000000_00001_00010_00011_00000100001 = .ok (.addu 1 2 3) := by decide
theorem test_decode_sub : decode 0b000000_00001_00010_00011_00000100010 = .ok (.sub 1 2 3) := by decide
theorem test_decode_subu : decode 0b000000_00001_00010_00011_00000100011 = .ok (.subu 1 2 3) := by decide
theorem test_decode_and : decode 0b000000_00001_00010_00011_00000100100 = .ok (.and 1 2 3) := by decide
theorem test_decode_or : decode 0b000000_00001_00010_00011_00000100101 = .ok (.or 1 2 3) := by decide
theorem test_decode_xor : decode 0b000000_00001_00010_00011_00000100110 = .ok (.xor 1 2 3) := by decide
theorem test_decode_slt : decode 0b000000_00001_00010_00011_00000101010 = .ok (.slt 1 2 3) := by decide
theorem test_decode_sgt : decode 0b000000_00001_00010_00011_00000101011 = .ok (.sgt 1 2 3) := by decide
theorem test_decode_sle : decode 0b000000_00001_00010_00011_00000101100 = .ok (.sle 1 2 3) := by decide
theorem test_decode_sge : decode 0b000000_00001_00010_00011_00000101101 = .ok (.sge 1 2 3) := by decide
theorem test_decode_seq : decode 0b000000_00001_00010_00011_00000101110 = .ok (.seq 1 2 3) := by decide
theorem test_decode_sne : decode 0b000000_00001_00010_00011_00000101111 = .ok (.sne 1 2 3) := by decide
theorem test_decode_j : decode 0b000010_11111111111111111111111100 = .ok (.j 0x3FFFFFC) := by decide
theorem test_decode_jal : decode 0b000011_11111111111111111111111100 = .ok (.jal 0x3FFFFFC) := by decide
theorem test_decode_beqz : decode 0b000100_00001_00010_1111111111111100 = .ok (.beqz 1 2 0xFFFC) := by decide
theorem test_decode_bnez : decode 0b000101_00001_00010_1111111111111100 = .ok (.bnez 1 2 0xFFFC) := by decide
theorem test_decode_addi : decode 0b001000_00001_00010_1111111111111100 = .ok (.addi 1 2 0xFFFC) := by decide
theorem test_decode_addui : decode 0b001001_00001_00010_1111111111111100 = .ok (.addui 1 2 0xFFFC) := by decide
theorem test_decode_subi : decode 0b001010_00001_00010_1111111111111100 = .ok (.subi 1 2 0xFFFC) := by decide
theorem test_decode_subui : decode 0b001011_00001_00010_1111111111111100 = .ok (.subui 1 2 0xFFFC) := by decide
theorem test_decode_andi : decode 0b001100_00001_00010_1111111111111100 = .ok (.andi 1 2 0xFFFC) := by decide
theorem test_decode_ori : decode 0b001101_00001_00010_1111111111111100 = .ok (.ori 1 2 0xFFFC) := by decide
theorem test_decode_xori : decode 0b001110_00001_00010_1111111111111100 = .ok (.xori 1 2 0xFFFC) := by decide
theorem test_decode_lhi : decode 0b001111_00001_00010_1111111111111100 = .ok (.lhi 1 2 0xFFFC) := by decide
theorem test_decode_slli : decode 0b010000_00001_00010_1111111111111100 = .ok (.slli 1 2 0xFFFC) := by decide
theorem test_decode_srli : decode 0b010001_00001_00010_1111111111111100 = .ok (.srli 1 2 0xFFFC) := by decide
theorem test_decode_srai : decode 0b010010_00001_00010_1111111111111100 = .ok (.srai 1 2 0xFFFC) := by decide
theorem test_decode_slti : decode 0b011010_00001_00010_1111111111111100 = .ok (.slti 1 2 0xFFFC) := by decide
theorem test_decode_sgti : decode 0b011011_00001_00010_1111111111111100 = .ok (.sgti 1 2 0xFFFC) := by decide
theorem test_decode_slei : decode 0b011100_00001_00010_1111111111111100 = .ok (.slei 1 2 0xFFFC) := by decide
theorem test_decode_sgei : decode 0b011101_00001_00010_1111111111111100 = .ok (.sgei 1 2 0xFFFC) := by decide
theorem test_decode_seqi : decode 0b011110_00001_00010_1111111111111100 = .ok (.seqi 1 2 0xFFFC) := by decide
theorem test_decode_snei : decode 0b011111_00001_00010_1111111111111100 = .ok (.snei 1 2 0xFFFC) := by decide
theorem test_decode_lb : decode 0b100000_00001_00010_1111111111111100 = .ok (.lb 1 2 0xFFFC) := by decide
theorem test_decode_lh : decode 0b100001_00001_00010_1111111111111100 = .ok (.lh 1 2 0xFFFC) := by decide
theorem test_decode_lw : decode 0b100011_00001_00010_1111111111111100 = .ok (.lw 1 2 0xFFFC) := by decide
theorem test_decode_lbu : decode 0b100100_00001_00010_1111111111111100 = .ok (.lbu 1 2 0xFFFC) := by decide
theorem test_decode_lhu : decode 0b100101_00001_00010_1111111111111100 = .ok (.lhu 1 2 0xFFFC) := by decide
theorem test_decode_sb : decode 0b101000_00001_00010_1111111111111100 = .ok (.sb 1 2 0xFFFC) := by decide
theorem test_decode_sh : decode 0b101001_00001_00010_1111111111111100 = .ok (.sh 1 2 0xFFFC) := by decide
theorem test_decode_sw : decode 0b101011_00001_00010_1111111111111100 = .ok (.sw 1 2 0xFFFC) := by decide

/-- Field extremes (spec/95 section 2.2). -/
theorem test_decode_extremes :
    decode 0x00000000 = .ok (.sll 0 0 0) ∧ decode 0x03FFF820 = .ok (.add 31 31 31) ∧
    decode 0x03E0F820 = .ok (.add 31 0 31) ∧ decode 0x001F0020 = .ok (.add 0 31 0) ∧
    decode 0x03E00008 = .ok (.jr 31 0 0) ∧ decode 0x0FFFFFFF = .ok (.jal 0x3FFFFFF) ∧
    decode 0x23FFFFFF = .ok (.addi 31 31 0xFFFF) ∧ decode 0x4022FFE1 = .ok (.slli 1 2 0xFFE1) := by decide

/-- Words that select no instruction (spec/95 section 2.3). -/
theorem test_decode_unassigned :
    decode 0x04000000 = .error (.unassignedOp 0x01) ∧ decode 0x60000000 = .error (.unassignedOp 0x18) ∧
    decode 0xFFFFFFFF = .error (.unassignedOp 0x3F) ∧ decode 0x00000001 = .error (.unassignedFunc 0x001) ∧
    decode 0x00000040 = .error (.unassignedFunc 0x040) ∧ decode 0x00000420 = .error (.unassignedFunc 0x420) ∧
    decode 0x000007FF = .error (.unassignedFunc 0x7FF) := by decide

/-! ### Execution (spec/95 sections 3.1 to 3.4): at most two vectors per instruction -/

theorem test_add_wraps : regOf (step (load 0x00221820 0x7FFFFFFF 0x1)) 3 = some 0x80000000 := by decide
theorem test_add_sums : regOf (step (load 0x00221820 0x1 0x2)) 3 = some 0x3 := by decide
theorem test_addu_wraps : regOf (step (load 0x00221821 0xFFFFFFFF 0x1)) 3 = some 0x0 := by decide
theorem test_sub_takes_rs1_from_rs0 : regOf (step (load 0x00221822 0x5 0x7)) 3 = some 0xFFFFFFFE := by decide
theorem test_sub_wraps : regOf (step (load 0x00221822 0x80000000 0x1)) 3 = some 0x7FFFFFFF := by decide
theorem test_subu_wraps : regOf (step (load 0x00221823 0x0 0x1)) 3 = some 0xFFFFFFFF := by decide
theorem test_mult_signed : regOf (step (load 0x00221818 0xFFFFFFF9 0x6)) 3 = some 0xFFFFFFD6 := by decide
theorem test_mult_low_word : regOf (step (load 0x00221818 0x10000 0x10000)) 3 = some 0x0 := by decide
theorem test_multu_low_word : regOf (step (load 0x00221819 0xFFFFFFFF 0xFFFFFFFF)) 3 = some 0x1 := by decide
theorem test_div_toward_zero : regOf (step (load 0x0022181A 0xFFFFFFF9 0x2)) 3 = some 0xFFFFFFFD := by decide
theorem test_divu_unsigned : regOf (step (load 0x0022181B 0xFFFFFFF9 0x2)) 3 = some 0x7FFFFFFC := by decide
theorem test_and_bits : regOf (step (load 0x00221824 0xFF00FF00 0x0FF00FF0)) 3 = some 0x0F000F00 := by decide
theorem test_or_bits : regOf (step (load 0x00221825 0xFF00FF00 0x0FF00FF0)) 3 = some 0xFFF0FFF0 := by decide
theorem test_xor_bits : regOf (step (load 0x00221826 0xFF00FF00 0x0FF00FF0)) 3 = some 0xF0F0F0F0 := by decide
theorem test_sll_loses_bit_31 : regOf (step (load 0x00221800 0x80000001 0x1)) 3 = some 0x2 := by decide
theorem test_sll_low_5_bits : regOf (step (load 0x00221800 0x12345678 0xFFFFFF04)) 3 = some 0x23456780 := by decide
theorem test_srl_zero_fill : regOf (step (load 0x00221802 0xFFFFFFFF 0x4)) 3 = some 0x0FFFFFFF := by decide
theorem test_srl_amount_32 : regOf (step (load 0x00221802 0x80000000 0x20)) 3 = some 0x80000000 := by decide
theorem test_sra_sign_fill : regOf (step (load 0x00221803 0x80000000 0x4)) 3 = some 0xF8000000 := by decide
theorem test_sra_positive : regOf (step (load 0x00221803 0x7FFFFFFF 0x4)) 3 = some 0x07FFFFFF := by decide
theorem test_slt_signed : regOf (step (load 0x0022182A 0x80000000 0x7FFFFFFF)) 3 = some 0x1 := by decide
theorem test_slt_equal : regOf (step (load 0x0022182A 0x1 0x1)) 3 = some 0x0 := by decide
theorem test_sgt_signed : regOf (step (load 0x0022182B 0x7FFFFFFF 0x80000000)) 3 = some 0x1 := by decide
theorem test_sgt_equal : regOf (step (load 0x0022182B 0x1 0x1)) 3 = some 0x0 := by decide
theorem test_sle_signed : regOf (step (load 0x0022182C 0xFFFFFFFF 0x0)) 3 = some 0x1 := by decide
theorem test_sle_greater : regOf (step (load 0x0022182C 0x2 0x1)) 3 = some 0x0 := by decide
theorem test_sge_signed : regOf (step (load 0x0022182D 0x0 0xFFFFFFFF)) 3 = some 0x1 := by decide
theorem test_sge_less : regOf (step (load 0x0022182D 0x1 0x2)) 3 = some 0x0 := by decide
theorem test_seq_equal : regOf (step (load 0x0022182E 0x1 0x1)) 3 = some 0x1 := by decide
theorem test_seq_bit_31 : regOf (step (load 0x0022182E 0x80000000 0x0)) 3 = some 0x0 := by decide
theorem test_sne_bit_31 : regOf (step (load 0x0022182F 0xFFFFFFFF 0x7FFFFFFF)) 3 = some 0x1 := by decide
theorem test_sne_equal : regOf (step (load 0x0022182F 0x0 0x0)) 3 = some 0x0 := by decide
theorem test_addi_negative : regOf (step (load 0x2022FFFC 0x5 0xDEADBEEF)) 2 = some 0x1 := by decide
theorem test_addi_wraps : regOf (step (load 0x20220001 0x7FFFFFFF 0xDEADBEEF)) 2 = some 0x80000000 := by decide
theorem test_addui_zero_extends : regOf (step (load 0x2422FFFC 0x5 0xDEADBEEF)) 2 = some 0x00010001 := by decide
theorem test_subi_negative : regOf (step (load 0x2822FFFC 0x5 0xDEADBEEF)) 2 = some 0x9 := by decide
theorem test_subui_zero_extends : regOf (step (load 0x2C22FFFC 0x5 0xDEADBEEF)) 2 = some 0xFFFF0009 := by decide
theorem test_andi_zero_extends : regOf (step (load 0x3022F0F0 0xFFFFFFFF 0xDEADBEEF)) 2 = some 0x0000F0F0 :=
  by decide
theorem test_ori_zero_extends : regOf (step (load 0x3422ABCD 0x12340000 0xDEADBEEF)) 2 = some 0x1234ABCD :=
  by decide
theorem test_xori_zero_extends : regOf (step (load 0x3822FFFF 0xFFFFFFFF 0xDEADBEEF)) 2 = some 0xFFFF0000 :=
  by decide
theorem test_lhi_clears_low : regOf (step (load 0x3C221234 0x55555555 0xDEADBEEF)) 2 = some 0x12340000 := by decide
theorem test_lhi_bit_31 : regOf (step (load 0x3C228000 0x55555555 0xDEADBEEF)) 2 = some 0x80000000 := by decide
theorem test_slli_low_5_bits : regOf (step (load 0x4022FFE1 0x1 0xDEADBEEF)) 2 = some 0x2 := by decide
theorem test_slli_by_31 : regOf (step (load 0x4022001F 0x1 0xDEADBEEF)) 2 = some 0x80000000 := by decide
theorem test_srli_zero_fill : regOf (step (load 0x44220004 0xF0000000 0xDEADBEEF)) 2 = some 0x0F000000 := by decide
theorem test_srli_low_5_bits : regOf (step (load 0x44220021 0x80000000 0xDEADBEEF)) 2 = some 0x40000000 := by decide
theorem test_srai_sign_fill : regOf (step (load 0x48220004 0xF0000000 0xDEADBEEF)) 2 = some 0xFF000000 := by decide
theorem test_srai_low_5_bits : regOf (step (load 0x4822FFFF 0x80000000 0xDEADBEEF)) 2 = some 0xFFFFFFFF := by decide
theorem test_slti_sign_extends : regOf (step (load 0x6822FFFF 0x0000FFFF 0xDEADBEEF)) 2 = some 0x0 := by decide
theorem test_slti_signed : regOf (step (load 0x68228000 0x80000000 0xDEADBEEF)) 2 = some 0x1 := by decide
theorem test_sgti_sign_extends : regOf (step (load 0x6C22FFFF 0x0 0xDEADBEEF)) 2 = some 0x1 := by decide
theorem test_sgti_equal : regOf (step (load 0x6C220005 0x5 0xDEADBEEF)) 2 = some 0x0 := by decide
theorem test_slei_sign_extends : regOf (step (load 0x70228000 0xFFFF8000 0xDEADBEEF)) 2 = some 0x1 := by decide
theorem test_slei_greater : regOf (step (load 0x7022FFFF 0x0 0xDEADBEEF)) 2 = some 0x0 := by decide
theorem test_sgei_sign_extends : regOf (step (load 0x7422FFFF 0x0 0xDEADBEEF)) 2 = some 0x1 := by decide
theorem test_sgei_less : regOf (step (load 0x7422FFFF 0xFFFFFFFE 0xDEADBEEF)) 2 = some 0x0 := by decide
theorem test_seqi_sign_extends : regOf (step (load 0x7822FFFF 0xFFFFFFFF 0xDEADBEEF)) 2 = some 0x1 := by decide
theorem test_seqi_upper_half : regOf (step (load 0x7822FFFF 0x0000FFFF 0xDEADBEEF)) 2 = some 0x0 := by decide
theorem test_snei_sign_extends : regOf (step (load 0x7C22FFFF 0xFFFFFFFF 0xDEADBEEF)) 2 = some 0x0 := by decide
theorem test_snei_upper_half : regOf (step (load 0x7C22FFFF 0x0000FFFF 0xDEADBEEF)) 2 = some 0x1 := by decide

/-- DIV and DIVU by 0 complete with the first draw of the run, whatever it is, and make it (spec/95 section 3.1). -/
theorem test_div_by_zero : regOf (step (load 0x0022181A 7 0)) 3 = some (Config.divByZero 0) := rfl
theorem test_divu_by_zero : regOf (step (load 0x0022181B 7 0)) 3 = some (Config.divByZero 0) := rfl

/-! ### Loads and stores (spec/95 section 3.5) -/

theorem test_lb_base_and_displacement : regOf (step (loadMem .big 0x8022FFFF 0x1004 0xDEADBEEF)) 2 = some 0x1 :=
  by decide
theorem test_lb_sign_extends : regOf (step (loadMem .big 0x80220002 0x1000 0xDEADBEEF)) 2 = some 0xFFFFFFFE :=
  by decide
theorem test_lbu_zero_extends : regOf (step (loadMem .big 0x90220002 0x1000 0xDEADBEEF)) 2 = some 0xFE := by decide
theorem test_lh_big_sign_extends : regOf (step (loadMem .big 0x84220000 0x1000 0xDEADBEEF)) 2 = some 0xFFFF807F :=
  by decide
theorem test_lh_little_sign_extends : regOf (step (loadMem .little 0x8422FFFA 0x1004 0xDEADBEEF)) 2 = some 0xFFFFDDCC :=
  by decide
theorem test_lhu_big_zero_extends : regOf (step (loadMem .big 0x94220002 0x1000 0xDEADBEEF)) 2 = some 0xFE01 :=
  by decide
theorem test_lhu_little : regOf (step (loadMem .little 0x94220000 0x1000 0xDEADBEEF)) 2 = some 0x7F80 := by decide
theorem test_lw_big : regOf (step (loadMem .big 0x8C22FFFC 0x1000 0xDEADBEEF)) 2 = some 0xAABBCCDD := by decide
theorem test_lw_little_sum_aligned : regOf (step (loadMem .little 0x8C220003 0x1001 0xDEADBEEF)) 2 = some 0x44332211 :=
  by decide
theorem test_sb_low_byte :
    bytesOf (step (loadMem .big 0xA022FFFF 0x1004 0xA1B2C3D4)) 0x1002 3 =
      some [some 0xFE, some 0xD4, some 0x11] := by decide
theorem test_sh_big :
    bytesOf (step (loadMem .big 0xA4220000 0x1000 0xA1B2C3D4)) 0xFFF 4 =
      some [some 0xDD, some 0xC3, some 0xD4, some 0xFE] := by decide
theorem test_sh_little :
    bytesOf (step (loadMem .little 0xA4220002 0x1000 0xA1B2C3D4)) 0x1001 4 =
      some [some 0x7F, some 0xD4, some 0xC3, some 0x11] := by decide
theorem test_sw_big :
    bytesOf (step (loadMem .big 0xAC220004 0x1000 0xA1B2C3D4)) 0x1003 6 =
      some [some 0x01, some 0xA1, some 0xB2, some 0xC3, some 0xD4, none] := by decide
theorem test_sw_little :
    bytesOf (step (loadMem .little 0xAC22FFFC 0x1000 0xA1B2C3D4)) 0xFFB 6 =
      some [none, some 0xD4, some 0xC3, some 0xB2, some 0xA1, some 0x80] := by decide

/-- A misaligned access faults; an unwritten byte reads as a free value. -/
theorem test_misaligned_accesses_fault :
    faultOf (step (loadMem .big 0x84220001 0x1000 0)) = some .misalignedData ∧
    faultOf (step (loadMem .big 0x94220000 0x1003 0)) = some .misalignedData ∧
    faultOf (step (loadMem .big 0x8C220002 0x1000 0)) = some .misalignedData ∧
    faultOf (step (loadMem .big 0xA4220003 0x1000 0)) = some .misalignedData ∧
    faultOf (step (loadMem .big 0xAC220002 0x1000 0)) = some .misalignedData := by decide

theorem test_lbu_of_an_unwritten_byte :
    regOf (step (loadMem .big 0x90220000 0x2000 0)) 2 = some (zext (Config.unwrittenByte 0x2000)) := rfl

/-! ### Control transfers (spec/95 section 3.6) -/

theorem test_beqz_taken : pcOf (step (loadAt 0x100 none 0x10200008 0)) = some (0x104, some 0x10C) := by decide
theorem test_beqz_untaken : pcOf (step (loadAt 0x100 none 0x10200008 1)) = some (0x104, none) := by decide
theorem test_bnez_taken : pcOf (step (loadAt 0x100 none 0x1420FFF4 5)) = some (0x104, some 0xF8) := by decide
theorem test_bnez_untaken : pcOf (step (loadAt 0x100 none 0x1420FFF4 0)) = some (0x104, none) := by decide
theorem test_j_to_itself : pcOf (step (loadAt 0x100 none 0x0BFFFFFF 0)) = some (0x104, some 0x100) := by decide
theorem test_j_backward : pcOf (step (loadAt 0x10000000 none 0x0A000000 0)) = some (0x10000004, some 0x08000004) :=
  by decide
theorem test_jal_forward : pcOf (step (loadAt 0x100 none 0x0C000010 0)) = some (0x104, some 0x144) := by decide
theorem test_jr_target : pcOf (step (loadAt 0x100 none 0x00200008 0x202)) = some (0x104, some 0x202) := by decide
theorem test_jalr_target : pcOf (step (loadAt 0x100 none 0x00200009 0x2000)) = some (0x104, some 0x2000) :=
  by decide
theorem test_jal_links : regOf (step (loadAt 0x100 none 0x0C000010 0)) 31 = some 0x108 := by decide
theorem test_jalr_links : regOf (step (loadAt 0x100 none 0x00200009 0x2000)) 31 = some 0x108 := by decide

/-- An instruction in a slot goes on at the pending target; a control transfer there faults, taken or not. -/
theorem test_slots :
    pcOf (step (loadAt 0x100 (some 0x200) 0x00221820 1)) = some (0x200, none) ∧
    faultOf (step (loadAt 0x100 (some 0x200) 0x08000003 1)) = some .controlInDelaySlot ∧
    faultOf (step (loadAt 0x100 (some 0x200) 0x10200008 1)) = some .controlInDelaySlot ∧
    faultOf (step (loadAt 0x202 none 0x08000003 1)) = some .misalignedFetch := by decide

/-! ### Register 0 and reset (spec/95 sections 3.7 and 3.8) -/

theorem test_register_zero :
    faultOf (step (load 0x20000001 0 0)) = some .r0Write ∧ regOf (step (load 0x20000000 0 0)) 0 = some 0 ∧
    regOf (step (load 0x00220020 1 0xFFFFFFFF)) 0 = some 0 ∧ faultOf (step (load 0x00220020 1 1)) = some .r0Write ∧
    faultOf (step (loadMem .big 0x8C200000 0x1000 0)) = some .r0Write ∧
    regOf (step (withPolicy (load 0x20000001 0 0) .hardwired)) 0 = some 0 ∧
    regOf (step (withPolicy (load 0x20000001 0 0) .ordinary)) 0 = some 1 := by decide

theorem test_reset_drops_the_pending_branch :
    pcOf (step (setReset (loadAt 0x40 (some 0x80) 0 5) true)) = some (0, none) ∧
    regOf (step (setReset (loadAt 0x40 (some 0x80) 0 5) true)) 1 = some 0 := by decide

theorem test_first_instruction_after_reset : regOf (step (State.reset.withFetchWord 32 0x2001000A)) 1 = some 10 := by
  decide

/-! ### Witnesses: states and operands that meet the hypotheses of the obligations -/

/-- A state whose register 1 is 0x1000, with the test data memory and a hole just past it. -/
def withHole : State := { loadMem .big 0x00000000 0x1000 0xA1B2C3D4 with holes := [⟨0x1008, 8⟩] }

/-- Registers 1 and 2 as given, and all of the parameters at their defaults. -/
def regs (x1 x2 : Word) : State := load 0x00000000 x1 x2

/-- `regs` with other parameters. -/
def regsWith (c : Config) (x1 x2 : Word) : State := { regs x1 x2 with cfg := c }

theorem backed_withHole : Backed withHole 0x1007 1 ∧ Backed withHole 0x1006 2 ∧ Backed withHole 0x1004 4 ∧
    Backed withHole 0x1010 4 := by
  unfold Backed
  decide

theorem not_backed_withHole : ¬ Backed withHole 0x1008 1 ∧ ¬ Backed withHole 0x100F 1 ∧ ¬ Backed withHole 0x1008 2 ∧
    ¬ Backed withHole 0x100C 4 := by
  unfold Backed
  decide

theorem backed_without_holes (s : State) (h : s.holes = []) (a : Word) (n : Nat) : Backed s a n := by
  intro k _ r hr
  rw [h] at hr
  cases hr

theorem witness_EncodeOfDecodeIsTheWord : decode 0x00221820 = .ok (.add 1 2 3) ∧
    decode 0xAFFFFFFF = .ok (.sw 31 31 0xFFFF) := by decide

theorem witness_RRWordsDecodeByTheirMatch : ∀ m ∈ ([0x00, 0x02, 0x03, 0x08, 0x09, 0x18, 0x19, 0x1A, 0x1B, 0x20, 0x21,
    0x22, 0x23, 0x24, 0x25, 0x26, 0x2A, 0x2B, 0x2C, 0x2D, 0x2E, 0x2F] : List Word),
    (0x03FFF800 ||| m) &&& 0xFC0007FF = m := by
  simp

theorem witness_JWordsDecodeByTheirMatch : (0x0BFFFFFF : Word) &&& 0xFC000000 = 0x08000000 ∧
    (0x0FFFFFFF : Word) &&& 0xFC000000 = 0x0C000000 := by decide

theorem witness_RIWordsDecodeByTheirMatch : ∀ p ∈ ([0x04, 0x05, 0x08, 0x09, 0x0A, 0x0B, 0x0C, 0x0D, 0x0E, 0x0F, 0x10,
    0x11, 0x12, 0x1A, 0x1B, 0x1C, 0x1D, 0x1E, 0x1F, 0x20, 0x21, 0x23, 0x24, 0x25, 0x28, 0x29, 0x2B] : List Word),
    (p <<< 26 ||| 0x03FFFFFF) &&& 0xFC000000 = p <<< 26 := by
  simp

theorem witness_AWordMatchesOneRowOnly :
    encode (.add 31 31 31) &&& maskOf (.add 0 0 0) = matchOf (.add 0 0 0) ∧
    encode (.sw 31 31 0xFFFF) &&& maskOf (.sw 0 0 0) = matchOf (.sw 0 0 0) := by decide

/-- One state for each of the three outcomes. -/
theorem witness_StepRunsTheDecodedInstruction :
    (let s := load 0x00221820 1 2;
      s.resetPin = false ∧ s.pc.toNat % 4 = 0 ∧ cellRead s.pc.toNat s.imem = some 0x00221820 ∧
      decode 0x00221820 = .ok (.add 1 2 3) ∧ readsTooSoon (.add 1 2 3) s = false ∧
      regOf (exec (.add 1 2 3) s) 3 = some 3) ∧
    (let s := loadAt 0xFFFFFFFC none 0x20000001 0;
      s.resetPin = false ∧ s.pc.toNat % 4 = 0 ∧ cellRead s.pc.toNat s.imem = some 0x20000001 ∧
      decode 0x20000001 = .ok (.addi 0 0 1) ∧ readsTooSoon (.addi 0 0 1) s = false ∧
      faultOf (exec (.addi 0 0 1) s) = some .r0Write) ∧
    (let s := { withHole with imem := [(0, 0x8C220008)] };
      s.resetPin = false ∧ s.pc.toNat % 4 = 0 ∧ cellRead s.pc.toNat s.imem = some 0x8C220008 ∧
      decode 0x8C220008 = .ok (.lw 1 2 8) ∧ readsTooSoon (.lw 1 2 8) s = false ∧
      refusalOf (exec (.lw 1 2 8) s) = some .neverAcknowledged) := by decide

theorem witness_StepStopsBeforeExecuting :
    (let s := loadAt 3 none 0xFFFFFFFF 0;
      s.resetPin = false ∧ s.pc.toNat % 4 ≠ 0) ∧
    (State.reset.resetPin = false ∧ State.reset.pc.toNat % 4 = 0 ∧
      cellRead State.reset.pc.toNat State.reset.imem = none) ∧
    (let s := load 0xFC000000 0 0;
      s.resetPin = false ∧ s.pc.toNat % 4 = 0 ∧ cellRead s.pc.toNat s.imem = some 0xFC000000 ∧
      decode 0xFC000000 = .error (.unassignedOp 0x3F)) := by decide

theorem witness_ResetStepResets : (setReset (loadAt 0x40 (some 0x80) 0 5) true).resetPin = true := by decide

theorem inv_load : Inv (load 0x00221820 1 2) :=
  ⟨by decide, by decide, by decide, fun h => absurd rfl h, by decide⟩

theorem witness_StepKeepsTheInvariant : Inv (load 0x00221820 1 2) ∧ ∃ t, step (load 0x00221820 1 2) = .next t :=
  ⟨inv_load, _, rfl⟩

theorem witness_StepKeepsProgramAndParameters : ∃ t, step (load 0xAC220000 0x1000 2) = .next t := ⟨_, rfl⟩

/-- A jump with its slot, and two instructions in a row. -/
def jumpAndSlot : State := { load 0x08000003 1 2 with imem := [(0, 0x08000003), (4, 0x00221820)] }
def twoSums : State := { load 0x00221820 1 2 with imem := [(0, 0x00221820), (4, 0x00221820)] }

theorem witness_DelaySlotThenTarget :
    (jumpAndSlot.resetPin = false ∧ jumpAndSlot.pend = none ∧
      ∃ t u, step jumpAndSlot = .next t ∧ step t = .next u ∧ t.pend = some 0x10) ∧
    (twoSums.resetPin = false ∧ twoSums.pend = none ∧
      ∃ t u, step twoSums = .next t ∧ step t = .next u ∧ t.pend = none) :=
  ⟨⟨rfl, rfl, _, _, rfl, rfl, rfl⟩, rfl, rfl, _, _, rfl, rfl, rfl⟩

theorem witness_ControlTransferInSlotFaults : isControl (.bnez 1 0 8) = true ∧
    (loadAt 0x100 (some 0x200) 0x14200008 0).pend ≠ none := by decide

theorem witness_MisalignedTargetFaultsAtItsFetch :
    (loadAt 0x100 (some 0x201) 0x00221820 1).resetPin = false ∧
    (loadAt 0x100 (some 0x201) 0x00221820 1).pend = some 0x201 ∧ (0x201 : Word).toNat % 4 ≠ 0 ∧
    ∃ t, step (loadAt 0x100 (some 0x201) 0x00221820 1) = .next t := ⟨rfl, rfl, by decide, _, rfl⟩

theorem witness_OnlyControlTransfersLeaveABranchPending :
    ∃ t, exec (.j 3) (load 0 1 2) = .next t ∧ t.pend = some 0x10 := ⟨_, rfl, rfl⟩

theorem witness_InstructionsChangeOnlyTheirDestination :
    (∃ t, exec (.add 1 2 3) (regs 1 2) = .next t) ∧ destination (regs 1 2).cfg (.add 1 2 3) ≠ some 2 :=
  ⟨⟨_, rfl⟩, by decide⟩

theorem witness_InstructionsChangeOnlyTheBytesTheyStore :
    (∃ t, exec (.sh 1 2 0) (regs 0x1000 0xA1B2) = .next t) ∧
    dataAccess (.sh 1 2 0) (regs 0x1000 0xA1B2) = some (.store 0x1000 [0xA1, 0xB2]) ∧
    (∀ k < 2, (0x1002 : Word) ≠ 0x1000 + BitVec.ofNat 32 k) ∧ (∀ k < 2, (0xFFF : Word) ≠ 0x1000 + BitVec.ofNat 32 k) :=
  ⟨⟨_, rfl⟩, by decide, by decide, by decide⟩

/-- The two states differ in register 3 alone, which the instructions do not read; one for each outcome. -/
theorem witness_InstructionsDependOnlyOnTheirSources :
    (let s := regs 1 2;
      let s' := putReg s 3 7;
      s' = { s with gpr := s'.gpr } ∧ (∀ r ∈ sources (.add 1 2 3), readReg s' r = readReg s r) ∧
      destination s.cfg (.add 1 2 3) = some 3 ∧ regOf (exec (.add 1 2 3) s) 3 = some 3 ∧
      (∀ r ∈ sources (.add 1 2 0), readReg s' r = readReg s r) ∧ faultOf (exec (.add 1 2 0) s) = some .r0Write) ∧
    (let s := withHole;
      let s' := putReg s 3 7;
      s' = { s with gpr := s'.gpr } ∧ (∀ r ∈ sources (.lw 1 2 8), readReg s' r = readReg s r) ∧
      refusalOf (exec (.lw 1 2 8) s) = some .neverAcknowledged) := by decide

theorem witness_InstructionsStopOnlyAsNamed :
    faultOf (exec (.j 3) (loadAt 0x100 (some 0x200) 0 0)) = some .controlInDelaySlot ∧
    faultOf (exec (.lh 1 2 1) (regs 0x1000 0)) = some .misalignedData ∧
    faultOf (exec (.addi 0 0 1) (regs 0 0)) = some .r0Write ∧
    refusalOf (exec (.sw 1 2 8) withHole) = some .neverAcknowledged := by decide

theorem witness_RefusePolicyAgreesWithTheOthers :
    (load 0x00220020 1 0xFFFFFFFF).cfg.r0Policy = .refuse ∧ (load 0x00220020 1 0xFFFFFFFF).gpr[0] = 0 ∧
    ∃ t, step (load 0x00220020 1 0xFFFFFFFF) = .next t := ⟨rfl, by decide, _, rfl⟩

theorem witness_RefusePolicyFaultsExactlyOnNonzeroWrites :
    (regs 1 1).cfg.r0Policy = .refuse ∧
    (∃ t, exec (.add 1 2 0) (withPolicy (regs 1 1) .ordinary) = .next t ∧ t.gpr[0] ≠ 0) ∧
    (∃ t, exec (.add 1 2 3) (withPolicy (regs 1 1) .ordinary) = .next t ∧ t.gpr[0] = 0) :=
  ⟨rfl, ⟨_, rfl, by decide⟩, _, rfl, by decide⟩

theorem witness_UnusedFieldsChangeNothing : (regs 1 2).cfg.linkRegJalr ≠ .rdField ∧ (regs 1 2).cfg.shamtBits = 5 ∧
    (0xFFE1 : Half).extractLsb 4 0 = (0x0001 : Half).extractLsb 4 0 := by decide

/-- A register other than 0 takes any value; register 0 takes 0. -/
theorem witness_AddAndSubtractRegisters : Accepts (regs 0xFFFFFFFF 1) 3 (BitVec.ofInt 32 (0xFFFFFFFF + 1)) ∧
    Accepts (regs 1 1) 0 (BitVec.ofInt 32 (1 - 1)) := by decide

theorem witness_AddAndSubtractImmediates : Accepts (regs 0 1) 2 (BitVec.ofInt 32 (0 + (0x8000 : Half).toInt)) ∧
    Accepts (regs 1 1) 0 (BitVec.ofInt 32 (1 - (1 : Half).toInt)) := by decide

theorem witness_Products :
    ((regs 0x80000000 0xFFFFFFFF).cfg.mulResult = .low ∧ Accepts (regs 0x80000000 0xFFFFFFFF) 3 0x80000000) ∧
    (let s := regsWith { Config.default with mulResult := .high } 0x80000000 0xFFFFFFFF;
      s.cfg.mulResult = .high ∧ Accepts s 3 0 ∧ Accepts s 31 0x7FFFFFFF) := by decide

theorem witness_SignedQuotient :
    (let s := regs 0x80000000 1;
      (readReg s 2).toInt ≠ 0 ∧ ¬((readReg s 1).toInt = -2 ^ 31 ∧ (readReg s 2).toInt = -1) ∧ Accepts s 3 0x80000000) ∧
    (let s := regs 0x80000001 0xFFFFFFFF;
      (readReg s 2).toInt ≠ 0 ∧ ¬((readReg s 1).toInt = -2 ^ 31 ∧ (readReg s 2).toInt = -1) ∧
      Accepts s 3 0x7FFFFFFF) := by decide

theorem witness_UnsignedQuotient : (readReg (regs 0x80000000 0xFFFFFFFF) 2).toNat ≠ 0 ∧
    Accepts (regs 0x80000000 0xFFFFFFFF) 0 0 := by decide

theorem witness_DivisionCornersCompleteWithADraw :
    (readReg (regs 0 0) 2 = 0 ∧ Accepts (regs 0 0) 3 (Config.divByZero (regs 0 0).draws)) ∧
    (readReg (regs 0x80000000 0xFFFFFFFF) 1 = 0x80000000 ∧ readReg (regs 0x80000000 0xFFFFFFFF) 2 = 0xFFFFFFFF ∧
      Accepts (regs 0x80000000 0xFFFFFFFF) 3 (Config.divOverflow (regs 0x80000000 0xFFFFFFFF).draws)) :=
  ⟨⟨by decide, fun h => absurd h.1 (by decide)⟩, by decide, by decide, fun h => absurd h.1 (by decide)⟩

theorem witness_LogicalRegisters :
    (∀ k < 32, (0x0F000F00 : Word).getLsbD k = ((readReg (regs 0xFF00FF00 0x0FF00FF0) 1).getLsbD k &&
      (readReg (regs 0xFF00FF00 0x0FF00FF0) 2).getLsbD k)) ∧
    (∀ k < 32, (0xFFF0FFF0 : Word).getLsbD k = ((readReg (regs 0xFF00FF00 0x0FF00FF0) 1).getLsbD k ||
      (readReg (regs 0xFF00FF00 0x0FF00FF0) 2).getLsbD k)) ∧
    (∀ k < 32, (0xF0F0F0F0 : Word).getLsbD k = ((readReg (regs 0xFF00FF00 0x0FF00FF0) 1).getLsbD k !=
      (readReg (regs 0xFF00FF00 0x0FF00FF0) 2).getLsbD k)) ∧
    Accepts (regs 0xFF00FF00 0x0FF00FF0) 3 0x0F000F00 := by decide

/-- The immediate 0xF0F0 extended under both values of UIMM_ZEXT, and the three results for `x[1]` all ones. -/
theorem witness_LogicalImmediates :
    (∀ k < 32, (0x0000F0F0 : Word).getLsbD k =
      if k < 16 then (0xF0F0 : Half).getLsbD k else !(regs 1 2).cfg.uimmZext && (0xF0F0 : Half).getLsbD 15) ∧
    (∀ k < 32, (0xFFFFF0F0 : Word).getLsbD k = if k < 16 then (0xF0F0 : Half).getLsbD k
      else !(regsWith { Config.default with uimmZext := false } 1 2).cfg.uimmZext && (0xF0F0 : Half).getLsbD 15) ∧
    (let a := readReg (regs 0xFFFFFFFF 0) 1;
      (∀ k < 32, (0x0000F0F0 : Word).getLsbD k = (a.getLsbD k && (0x0000F0F0 : Word).getLsbD k)) ∧
      (∀ k < 32, (0xFFFFFFFF : Word).getLsbD k = (a.getLsbD k || (0x0000F0F0 : Word).getLsbD k)) ∧
      (∀ k < 32, (0xFFFF0F0F : Word).getLsbD k = (a.getLsbD k != (0x0000F0F0 : Word).getLsbD k))) ∧
    Accepts (regs 0xFFFFFFFF 0) 2 0x0000F0F0 := by decide

theorem witness_ShiftsByRegister : Accepts (regs 0x80000001 0x20) 3 0x80000001 ∧ Accepts (regs 1 0x1F) 3 0x80000000 := by
  decide

theorem witness_ShiftsByImmediate : Accepts (regs 0x80000000 0) 2 (BitVec.ofNat 32 (0x80000000 / 2 ^ 31)) ∧
    Accepts (regs 0 0) 0 0 := by decide

theorem witness_SetsOnRegisters : Accepts (regs 0x80000000 0x7FFFFFFF) 3 1 ∧ Accepts (regs 1 1) 0 0 := by decide

theorem witness_SetsOnImmediates : Accepts (regs 0xFFFF8000 0) 2 1 ∧ Accepts (regs 0x0000FFFF 0) 0 0 := by decide

theorem witness_LoadHigh : Accepts (regs 1 2) 2 0xFFFF0000 ∧ Accepts (regs 1 2) 0 0 := by decide

theorem witness_LoadHighThenOrBuildsAWord : (31 : RegNum) ≠ 0 ∧ (regs 1 2).cfg.uimmZext = true := by decide

/-- The last byte, halfword and word before a hole. -/
theorem witness_LoadByte : effectiveAddress withHole 1 7 = 0x1007 ∧ Backed withHole 0x1007 1 ∧
    Accepts withHole 2 (BitVec.ofInt 32 (readByte withHole 0x1007).toInt) :=
  ⟨by decide, backed_withHole.1, by decide⟩

theorem witness_LoadHalfword :
    (effectiveAddress withHole 1 6 = 0x1006 ∧ (0x1006 : Word).toNat % 2 = 0 ∧ Backed withHole 0x1006 2 ∧
      withHole.cfg.endian = .big ∧ Accepts withHole 2 0x3344) ∧
    (let s := loadMem .little 0 0xFFFFFFFE 0;
      effectiveAddress s 1 0 = 0xFFFFFFFE ∧ (0xFFFFFFFE : Word).toNat % 2 = 0 ∧ Backed s 0xFFFFFFFE 2 ∧
      s.cfg.endian ≠ .big) :=
  ⟨⟨by decide, by decide, backed_withHole.2.1, by decide, by decide⟩, by decide, by decide,
    backed_without_holes _ rfl _ _, by decide⟩

theorem witness_LoadWord :
    (effectiveAddress withHole 1 4 = 0x1004 ∧ (0x1004 : Word).toNat % 4 = 0 ∧ Backed withHole 0x1004 4 ∧
      withHole.cfg.endian = .big ∧ Accepts withHole 2 0x11223344) ∧
    (let s := loadMem .little 0 0xFFFFFFFC 0;
      effectiveAddress s 1 0 = 0xFFFFFFFC ∧ (0xFFFFFFFC : Word).toNat % 4 = 0 ∧ Backed s 0xFFFFFFFC 4 ∧
      s.cfg.endian ≠ .big) :=
  ⟨⟨by decide, by decide, backed_withHole.2.2.1, by decide, by decide⟩, by decide, by decide,
    backed_without_holes _ rfl _ _, by decide⟩

theorem witness_Stores :
    (effectiveAddress withHole 1 7 = 0x1007 ∧ Backed withHole 0x1007 1) ∧
    (effectiveAddress withHole 1 6 = 0x1006 ∧ (0x1006 : Word).toNat % 2 = 0 ∧ Backed withHole 0x1006 2) ∧
    (effectiveAddress withHole 1 0x10 = 0x1010 ∧ (0x1010 : Word).toNat % 4 = 0 ∧ Backed withHole 0x1010 4) :=
  ⟨⟨by decide, backed_withHole.1⟩, ⟨by decide, by decide, backed_withHole.2.1⟩, by decide, by decide,
    backed_withHole.2.2.2⟩

theorem witness_MisalignedAccessesFault : (effectiveAddress (regs 0x1000 0) 1 0xFFFF).toNat % 2 ≠ 0 ∧
    (effectiveAddress (regs 0x1000 0) 1 2).toNat % 4 ≠ 0 := by decide

/-- The first and the last byte of a hole, and a word inside it. -/
theorem witness_UnbackedAccessesAreNeverAcknowledged :
    (effectiveAddress withHole 1 8 = 0x1008 ∧ ¬ Backed withHole 0x1008 1) ∧
    (effectiveAddress withHole 1 0xF = 0x100F ∧ ¬ Backed withHole 0x100F 1) ∧
    (effectiveAddress withHole 1 8 = 0x1008 ∧ (0x1008 : Word).toNat % 2 = 0 ∧ ¬ Backed withHole 0x1008 2) ∧
    (effectiveAddress withHole 1 0xC = 0x100C ∧ (0x100C : Word).toNat % 4 = 0 ∧ ¬ Backed withHole 0x100C 4) :=
  ⟨⟨by decide, not_backed_withHole.1⟩, ⟨by decide, not_backed_withHole.2.1⟩,
    ⟨by decide, by decide, not_backed_withHole.2.2.1⟩, by decide, by decide, not_backed_withHole.2.2.2⟩

theorem witness_StoreThenLoadReturnsTheBytes : (effectiveAddress withHole 1 4).toNat % 4 = 0 ∧
    Backed withHole 0x1004 4 ∧ effectiveAddress withHole 1 4 = 0x1004 ∧ (1 : RegNum) ≠ 0 :=
  ⟨by decide, backed_withHole.2.2.1, by decide, by decide⟩

/-- A tested register that is 0, and one that is not. -/
theorem witness_ConditionalBranches :
    ((regs 0 2).pend = none ∧ (readReg (regs 0 2) 1).toNat = 0) ∧
    ((regs 0x80000000 2).pend = none ∧ (readReg (regs 0x80000000 2) 1).toNat ≠ 0) := by decide

theorem witness_Jumps : (regs 1 2).pend = none ∧
    Accepts (regs 1 2) (regs 1 2).cfg.linkRegJal ((regs 1 2).pc + (regs 1 2).cfg.linkOffset) := by decide

/-- A fixed link register, and the one of the field `rd`. -/
theorem witness_RegisterJumps :
    ((regs 1 2).pend = none ∧ (regs 1 2).cfg.linkRegJalr = .reg 31 ∧ Accepts (regs 1 2) 31 8) ∧
    (let s := regsWith { Config.default with linkRegJalr := .rdField } 1 2;
      s.pend = none ∧ s.cfg.linkRegJalr = .rdField ∧ Accepts s 3 8) := by decide

/-- A jump to itself with a NOP in its slot. -/
def looping : State := { State.reset with imem := [(0, 0x0BFFFFFF), (4, 0)] }

theorem witness_EndOfRunRepeats :
    (atEnd looping = true ∧ looping.pc.toNat % 4 = 0 ∧ looping.resetPin = false ∧ readReg looping 0 = 0 ∧
      looping.cfg.rawDistance = 0) ∧
    (let s := { looping with cfg := { looping.cfg with rawDistance := 3 } };
      atEnd s = true ∧ s.pc.toNat % 4 = 0 ∧ s.resetPin = false ∧ readReg s 0 = 0 ∧ some 0 ∉ s.recent) := by decide

/-- ADD R3, R1, R2, then ADD R4, R3, R3 after `n` NOPs, under a RAW_DISTANCE of `d`. -/
def hazardous (d n : Nat) : State :=
  { regsWith { Config.default with rawDistance := d } 1 2 with
    imem := (0, 0x00221820) :: (List.replicate n 0 ++ [0x00632020]).mapIdx fun k w => (4 * (k + 1), w) }

/-- ADD R0, R1, R2, which changes register 0 under R0_POLICY = ordinary, and then ADD R4, R0, R0. -/
def hazardousZero : State :=
  { regsWith { Config.default with rawDistance := 1, r0Policy := .ordinary } 1 2 with
    imem := [(0, 0x00220020), (4, 0x00002020)] }

/-- A reader of the third latest destination under RAW_DISTANCE = 3 and under 2; a reader right after a writer; one
right after a write that changed register 0; and RAW_DISTANCE = 0. -/
theorem witness_ReaderRightAfterWriterFaults :
    (let s := { hazardous 3 0 with recent := [none, none, some 2] };
      s.resetPin = false ∧ fetch s = .next (0x00221820, .add 1 2 3) ∧
      ∃ r ∈ sources (.add 1 2 3), some r ∈ s.recent.take s.cfg.rawDistance) ∧
    (let s := { hazardous 2 0 with recent := [none, none, some 2] };
      s.resetPin = false ∧ fetch s = .next (0x00221820, .add 1 2 3) ∧
      ¬ ∃ r ∈ sources (.add 1 2 3), some r ∈ s.recent.take s.cfg.rawDistance) ∧
    (let s := hazardous 1 0;
      s.resetPin = false ∧ fetch s = .next (0x00221820, .add 1 2 3) ∧ destination s.cfg (.add 1 2 3) = some 3 ∧
      (3 : RegNum) ≠ 0 ∧ (3 : RegNum) ∈ sources (.add 3 3 4) ∧ 1 ≤ s.cfg.rawDistance ∧
      ∃ t, step s = .next t ∧ fetch t = .next (0x00632020, .add 3 3 4)) ∧
    (let s := hazardousZero;
      s.resetPin = false ∧ fetch s = .next (0x00220020, .add 1 2 0) ∧ destination s.cfg (.add 1 2 0) = some 0 ∧
      (0 : RegNum) ∈ sources (.add 0 0 4) ∧ 1 ≤ s.cfg.rawDistance ∧
      ∃ t, step s = .next t ∧ t.gpr[0] ≠ s.gpr[0] ∧ fetch t = .next (0x00002020, .add 0 0 4)) ∧
    (regs 1 2).cfg.rawDistance = 0 :=
  ⟨⟨rfl, rfl, 2, by decide, by decide⟩, ⟨rfl, rfl, by decide⟩,
    ⟨rfl, rfl, rfl, by decide, by decide, by decide, _, rfl, rfl⟩,
    ⟨rfl, rfl, rfl, by decide, by decide, _, rfl, by decide, rfl⟩, rfl⟩

/-- One place after the writer under RAW_DISTANCE = 1, two under 2, three under 3. -/
theorem witness_ReadersWithinThreePlacesOfAWriterFault : ∀ n < 3,
    (hazardous (n + 1) n).resetPin = false ∧ fetch (hazardous (n + 1) n) = .next (0x00221820, .add 1 2 3) ∧
    destination (hazardous (n + 1) n).cfg (.add 1 2 3) = some 3 ∧ (3 : RegNum) ≠ 0 ∧
    (∃ t u, step (hazardous (n + 1) n) = .next t ∧ Sys2Proof.core.run n t = .next u ∧
      fetch u = .next (0x00632020, .add 3 3 4)) ∧
    n < (hazardous (n + 1) n).cfg.rawDistance ∧ (3 : RegNum) ∈ sources (.add 3 3 4) := by
  intro n hn
  obtain rfl | rfl | rfl : n = 0 ∨ n = 1 ∨ n = 2 := by omega
  all_goals exact ⟨rfl, rfl, rfl, by decide, ⟨_, _, rfl, rfl, rfl⟩, by decide, by decide⟩

end Sys2Proof.Tests
end

section
/-! PROOFS. The rows of rules R76 to R78: a word with a row's mask and match decodes to the row's instruction. -/

namespace Sys2Proof.Encoding

open Sys2Proof

/-! ### The decoder on the words of each format

`encode i` is a word of one of the three formats, so what the decoder answers on a format's word, row by row, is what
it answers on `encode i`. -/

/-- On an RR word the decoder is the table of rule R76, applied to the word's own fields. -/
@[simp] theorem decode_rrWord (f : BitVec 11) (a b c : RegNum) :
    decode (rrWord f a b c) = decodeFunc f a b c := by
  simp [decode, opField_rrWord, funcField_rrWord, rs0Field_rrWord, rs1Field_rrWord, rdField_rrWord]

/-- The decoder reads back the instruction an encoded word was made from (rules R76 to R78). -/
theorem decode_of_encode_eq {i : Instr} {w : Word} (h : encode i = w) : decode w = .ok i := by
  subst h
  cases i
  case j | jal => simp [encode, decode, opField_jWord, offsetField_jWord]
  case sll | srl | sra | jr | jalr | mult | multu | div | divu | add | addu | sub | subu | and | or | xor
      | slt | sgt | sle | sge | seq | sne =>
    exact decode_rrWord ..
  all_goals simp [encode, decode, opField_riWord, rs0Field_riWord, rs1Field_riWord, immField_riWord]

/-! ### A word from its match and its fields

A match determines `op` (and `func` in the RR format), and the word keeps its own fields: so a word of a row is the
encoder's word for the row's instruction with those fields. -/

/-- A word that the mask of rule R76 takes to a match with `op` 0 is the RR word of the match's `func` and of its own
register fields. -/
theorem rrWord_of_rrMask {w m : Word} (h : w &&& 0xFC0007FF = m) (hm : opField m = 0) :
    rrWord (funcField m) (w.extractLsb 25 21) (w.extractLsb 20 16) (w.extractLsb 15 11) = w := by
  obtain ⟨hop, hfunc⟩ := fields_of_rrMask h
  rw [← hfunc]
  exact rrWord_fields (hop.trans hm)

/-- A word is the RI word of the `op` its mask leaves and of its own register and constant fields. -/
theorem riWord_of_riMask {w m : Word} (h : w &&& 0xFC000000 = m) :
    riWord (opField m) (w.extractLsb 25 21) (w.extractLsb 20 16) (w.extractLsb 15 0) = w := by
  rw [← op_of_riMask h]
  exact riWord_fields w

/-- A word is the J word of the `op` its mask leaves and of its own offset. -/
theorem jWord_of_jMask {w m : Word} (h : w &&& 0xFC000000 = m) :
    jWord (opField m) (w.extractLsb 25 0) = w := by
  rw [← op_of_riMask h]
  exact jWord_fields w

/-- A word of an RR row decodes to the instruction `i` that the row encodes with the word's fields (rule R76). -/
theorem decode_of_rrMask {w m : Word} {i : Instr} (h : w &&& 0xFC0007FF = m) (hm : opField m = 0)
    (hi : encode i = rrWord (funcField m) (w.extractLsb 25 21) (w.extractLsb 20 16) (w.extractLsb 15 11)) :
    decode w = .ok i :=
  decode_of_encode_eq (hi.trans (rrWord_of_rrMask h hm))

/-- A word of an RI or B row decodes to the instruction `i` that the row encodes with the word's fields (rule R78). -/
theorem decode_of_riMask {w m : Word} {i : Instr} (h : w &&& 0xFC000000 = m)
    (hi : encode i = riWord (opField m) (w.extractLsb 25 21) (w.extractLsb 20 16) (w.extractLsb 15 0)) :
    decode w = .ok i :=
  decode_of_encode_eq (hi.trans (riWord_of_riMask h))

/-- A word of a J row decodes to the instruction `i` that the row encodes with the word's offset (rule R77). -/
theorem decode_of_jMask {w m : Word} {i : Instr} (h : w &&& 0xFC000000 = m)
    (hi : encode i = jWord (opField m) (w.extractLsb 25 0)) : decode w = .ok i :=
  decode_of_encode_eq (hi.trans (jWord_of_jMask h))

/-! ### The rows of rules R76 to R78

What is left of each row is that its match holds the `op` and the `func` the encoder gives its instruction. -/

/-- Settles O3, each row by `decode_of_rrMask`. -/
theorem rrWordsDecodeByTheirMatch : Obligations.RRWordsDecodeByTheirMatch := by
  intro w
  and_intros <;> exact fun h => decode_of_rrMask h rfl rfl

/-- Settles O5, each row by `decode_of_riMask`. -/
theorem riWordsDecodeByTheirMatch : Obligations.RIWordsDecodeByTheirMatch := by
  intro w
  and_intros <;> exact fun h => decode_of_riMask h rfl

/-- Settles O4, each row by `decode_of_jMask`. -/
theorem jWordsDecodeByTheirMatch : Obligations.JWordsDecodeByTheirMatch :=
  fun _ => ⟨fun h => decode_of_jMask h rfl, fun h => decode_of_jMask h rfl⟩

end Sys2Proof.Encoding
end

section
/-! PROOFS. The decoder and the encoder are each other's inverse, and the rows of rules R76 to R78 are disjoint and
leave out exactly the words of rule R81. -/

namespace Sys2Proof.Encoding

open Sys2Proof

/-! ### The round trips -/

/-- Settles O1, by `decode_of_encode_eq`, which splits along the three formats. -/
theorem decodeOfEncodeIsTheInstruction : Obligations.DecodeOfEncodeIsTheInstruction :=
  fun _ => decode_of_encode_eq rfl

/-- Whatever row of rule R76 the table selects, the encoder writes its `func` back. -/
theorem encode_of_decodeFunc {f : BitVec 11} {a b c : RegNum} {i : Instr} (h : decodeFunc f a b c = .ok i) :
    encode i = rrWord f a b c := by
  unfold decodeFunc at h
  split at h <;> cases h <;> rfl

/-- The RI word of a word's fields is the word, whatever literal its `op` is known to be. -/
theorem riWord_of_opField {w : Word} {p : BitVec 6} (h : opField w = p) :
    riWord p (rs0Field w) (rs1Field w) (immField w) = w := by
  rw [← h, riWord_fields]

/-- The J word of a word's fields is the word, whatever literal its `op` is known to be. -/
theorem jWord_of_opField {w : Word} {p : BitVec 6} (h : opField w = p) : jWord p (offsetField w) = w := by
  rw [← h, jWord_fields]

/-- Settles O2: in the row of `op` 0 by `encode_of_decodeFunc`, in the rows of rules R77 and R78 because the word is
the word of its own fields. -/
theorem encodeOfDecodeIsTheWord : Obligations.EncodeOfDecodeIsTheWord := by
  intro w i h
  unfold decode at h
  split at h
  case h_1 hop => exact (encode_of_decodeFunc h).trans (rrWord_fields hop)
  case h_2 hop | h_3 hop =>
    cases h
    exact jWord_of_opField hop
  case h_31 => cases h
  all_goals
    rename_i hop
    cases h
    exact riWord_of_opField hop

end Sys2Proof.Encoding
end

section
/-! PROOFS. The words of rule R81, which select no instruction. -/

namespace Sys2Proof.Encoding

open Sys2Proof

/-- The 22 values of `func` that rule R76 assigns. -/
def assignedFuncs : List Nat :=
  [0x000, 0x002, 0x003, 0x008, 0x009, 0x018, 0x019, 0x01A, 0x01B, 0x020, 0x021, 0x022, 0x023, 0x024, 0x025, 0x026,
    0x02A, 0x02B, 0x02C, 0x02D, 0x02E, 0x02F]

/-- The 34 values of `op` that rules R76 to R78 leave unassigned. -/
def unassignedOps : List Nat :=
  [0x01, 0x06, 0x07, 0x13, 0x14, 0x15, 0x16, 0x17, 0x18, 0x19, 0x22, 0x26, 0x27, 0x2A, 0x2C, 0x2D, 0x2E, 0x2F, 0x30,
    0x31, 0x32, 0x33, 0x34, 0x35, 0x36, 0x37, 0x38, 0x39, 0x3A, 0x3B, 0x3C, 0x3D, 0x3E, 0x3F]

/-- The table of rule R76 has a row for a value of `func` exactly when the value is an assigned one. -/
theorem decodeFunc_error_iff (f : BitVec 11) (a b c : RegNum) :
    (∃ e, decodeFunc f a b c = .error e) ↔ f.toNat ∉ assignedFuncs := by
  unfold decodeFunc
  split
  case h_23 =>
    refine iff_of_true ⟨_, rfl⟩ ?_
    simp_all [assignedFuncs, ← BitVec.toNat_inj]
  all_goals exact iff_of_false (fun ⟨_, h⟩ => nomatch h) (by decide)

/-- The 30 assigned values of `op` and the 34 unassigned ones are all 64. -/
theorem unassignedOps_or_assigned : ∀ p : BitVec 6, p.toNat ∈ unassignedOps ∨
    p ∈ [0x00#6, 0x02#6, 0x03#6, 0x04#6, 0x05#6, 0x08#6, 0x09#6, 0x0A#6, 0x0B#6, 0x0C#6, 0x0D#6, 0x0E#6, 0x0F#6,
      0x10#6, 0x11#6, 0x12#6, 0x1A#6, 0x1B#6, 0x1C#6, 0x1D#6, 0x1E#6, 0x1F#6, 0x20#6, 0x21#6, 0x23#6, 0x24#6, 0x25#6,
      0x28#6, 0x29#6, 0x2B#6] := by
  decide

/-- A word selects no instruction exactly when its `op` is unassigned, or 0 with a `func` that is unassigned. -/
theorem decode_error_iff (w : Word) : (∃ e, decode w = .error e) ↔
    (opField w).toNat ∈ unassignedOps ∨ (opField w).toNat = 0 ∧ (funcField w).toNat ∉ assignedFuncs := by
  unfold decode
  split
  case h_1 hop => simp [decodeFunc_error_iff, hop, unassignedOps]
  case h_31 =>
    refine iff_of_true ⟨_, rfl⟩ (.inl ((unassignedOps_or_assigned (opField w)).resolve_right ?_))
    simp_all
  all_goals
    rename_i hop
    refine iff_of_false (fun ⟨_, h⟩ => nomatch h) ?_
    simp [hop, unassignedOps]

/-- Settles O6, by the split of the decoder along `op` and, under `op` 0, along `func`. -/
theorem unassignedWordsDecodeToNothing : Obligations.UnassignedWordsDecodeToNothing :=
  decode_error_iff

/-! ### One row for each word -/

/-- The mask of a row follows from the `op` of its match: `func` counts under `op` 0 alone (rules R76 to R78). -/
theorem maskOf_eq (j : Instr) : maskOf j = if opField (matchOf j) = 0 then 0xFC0007FF else 0xFC000000 := by
  cases j <;> simp [maskOf, matchOf, opField]

/-- A word that matches a row has the `op` of the row's match. -/
theorem opField_of_row {w : Word} {j : Instr} (h : w &&& maskOf j = matchOf j) : opField w = opField (matchOf j) := by
  rw [maskOf_eq] at h
  split at h
  · exact (fields_of_rrMask h).1
  · exact op_of_riMask h

/-- The word of an instruction matches the instruction's own row: the row's mask keeps what the format fixes. -/
theorem encode_and_maskOf (i : Instr) : encode i &&& maskOf i = matchOf i := by
  cases i
  case j | jal => exact (Laws.mask_jWord _ _).trans rfl
  case sll | srl | sra | jr | jalr | mult | multu | div | divu | add | addu | sub | subu | and | or | xor
      | slt | sgt | sle | sge | seq | sne =>
    exact (Laws.mask_rrWord _ _ _ _).trans rfl
  all_goals exact (Laws.mask_riWord _ _ _ _).trans rfl

/-- Settles O7: a word has one `op`, so the rows it matches have one mask, and under one mask it has one match. -/
theorem aWordMatchesOneRowOnly : Obligations.AWordMatchesOneRowOnly := by
  refine ⟨encode_and_maskOf, fun i j h => ?_⟩
  have hop : opField (matchOf i) = opField (matchOf j) :=
    (opField_of_row (encode_and_maskOf i)).symm.trans (opField_of_row h)
  have hmask : maskOf i = maskOf j := by rw [maskOf_eq, maskOf_eq, hop]
  exact ⟨by rw [← encode_and_maskOf i, hmask, h], hmask⟩

/-- Settles O8: each written-out word is the one the encoder writes. -/
theorem writtenOutWordsDecode : Obligations.WrittenOutWordsDecode := by
  and_intros <;> exact decode_of_encode_eq rfl

end Sys2Proof.Encoding
end

section
/-! PROOFS. What a completed instruction and a completed step keep, and where they go next (spec/10_state.md rules
R24, R25). -/

namespace Sys2Proof.Stepping

open Sys2Proof Sys2Proof.Machine

/-! ### A completed instruction -/

/-- A completed instruction keeps the program, the platform, the Reset pin, the parameters, IR and the recent
destinations. -/
theorem exec_sameRest {i : Instr} {s t : State} (h : exec i s = .next t) : SameRest s t := by
  cases exec_completed h with
  | computed r v u w _ _ _ hu hw ht =>
    subst ht
    obtain ⟨-, ⟨h1, h2, h3, h4, h5, h6⟩, -⟩ := writeReg_fields hw
    rcases hu with rfl | rfl <;> exact ⟨h1, h2, h3, h4, h5, h6⟩
  | linked a r w _ _ _ _ hw ht =>
    subst ht
    obtain ⟨-, ⟨h1, h2, h3, h4, h5, h6⟩, -⟩ := writeReg_fields hw
    exact ⟨h1, h2, h3, h4, h5, h6⟩
  | stored _ _ _ _ _ _ _ ht | untaken _ _ _ _ ht | taken _ _ _ _ _ ht =>
    subst ht
    exact ⟨rfl, rfl, rfl, rfl, rfl, rfl⟩

/-- A completed instruction goes on at the pending target in a delay slot, else at the next word, and if it leaves a
branch pending it is a control transfer outside a slot. -/
theorem exec_pc_pend {i : Instr} {s t : State} (h : exec i s = .next t) :
    t.pc = nextPc s ∧ (t.pend = none ∨ isControl i = true ∧ s.pend = none) := by
  cases exec_completed h with
  | computed r v u w _ _ _ hu hw ht =>
    subst ht
    obtain ⟨-, -, -, hpc, hpend⟩ := writeReg_fields hw
    rcases hu with rfl | rfl <;> exact ⟨by simp [nextPc_eq, hpc, hpend], .inl rfl⟩
  | linked a r w _ hc _ hp hw ht =>
    subst ht
    obtain ⟨-, -, -, hpc, hpend⟩ := writeReg_fields hw
    exact ⟨by simp [nextPc_eq, hpc, hpend], .inr ⟨hc, hp⟩⟩
  | stored _ _ _ _ _ _ _ ht | untaken _ _ _ _ ht =>
    subst ht
    exact ⟨rfl, .inl rfl⟩
  | taken _ _ hc _ hp ht =>
    subst ht
    exact ⟨rfl, .inr ⟨hc, hp⟩⟩

/-- A completed instruction keeps the canonical form of the data memory. -/
theorem exec_dmem_wf {i : Instr} {s t : State} (hs : Memory.wf s.dmem) (h : exec i s = .next t) :
    Memory.wf t.dmem := by
  cases exec_completed h with
  | computed r v u w _ _ _ hu hw ht =>
    subst ht
    obtain ⟨⟨hm, -⟩, -⟩ := writeReg_fields hw
    rw [advance_dmem, hm]
    rcases hu with rfl | rfl <;> exact hs
  | linked a r w _ _ _ _ hw ht =>
    subst ht
    obtain ⟨⟨hm, -⟩, -⟩ := writeReg_fields hw
    rwa [transferTo_dmem, hm]
  | stored a bs _ _ _ _ _ ht =>
    subst ht
    exact Memory.wf_storeBytes hs a bs
  | untaken _ _ _ _ ht | taken _ _ _ _ _ ht =>
    subst ht
    exact hs

/-- Under R0_POLICY = refuse a register write keeps register 0 at 0. -/
theorem writeReg_keeps_zero {s t : State} {r : RegNum} {v : Word} (hp : s.cfg.r0Policy = .refuse)
    (hz : s.gpr[0] = 0) (h : writeReg s r v = .next t) : t.gpr[0] = 0 := by
  obtain ⟨ha, ⟨rfl, -⟩ | ⟨rfl, -⟩⟩ := writeReg_next h
  · by_cases hr : r = 0
    · subst hr
      have hv : v = 0 := by simpa [Accepts, hp] using ha
      simpa using hv
    · have hn : r.toNat ≠ 0 := fun e => hr (BitVec.eq_of_toNat_eq e)
      rw [putReg_gpr, Vector.getElem_set_ne _ _ hn, hz]
  · exact hz

/-- Under R0_POLICY = refuse a completed instruction keeps register 0 at 0. -/
theorem exec_keeps_zero {i : Instr} {s t : State} (hp : s.cfg.r0Policy = .refuse) (hz : s.gpr[0] = 0)
    (h : exec i s = .next t) : t.gpr[0] = 0 := by
  cases exec_completed h with
  | computed r v u w _ _ _ hu hw ht =>
    subst ht
    have hu' : u.cfg = s.cfg ∧ u.gpr = s.gpr := by rcases hu with rfl | rfl <;> exact ⟨rfl, rfl⟩
    obtain ⟨hcfg, hgpr⟩ := hu'
    exact (writeReg_keeps_zero (by rwa [hcfg]) (by rwa [hgpr]) hw :)
  | linked a r w _ _ _ _ hw ht =>
    subst ht
    exact (writeReg_keeps_zero hp hz hw :)
  | stored _ _ _ _ _ _ _ ht | untaken _ _ _ _ ht | taken _ _ _ _ _ ht =>
    subst ht
    exact hz

/-! ### A completed step -/

/-- A step that answers with the Reset pin at 0 has executed and retired the instruction that a word decodes to. -/
theorem step_next_of_running {s t : State} (hr : s.resetPin = false) (h : step s = .next t) :
    ∃ w i u, decode w = .ok i ∧ exec i s = .next u ∧ t = retire w i s u := by
  rcases step_next h with ⟨hr', -⟩ | ⟨w, i, u, -, -, -, hd, -, hu, ht⟩
  · rw [hr] at hr'
    cases hr'
  · exact ⟨w, i, u, hd, hu, ht⟩

/-- Settles O14: the reset step meets each clause by its values, and an instruction by what a completed instruction
keeps. -/
theorem stepKeepsTheInvariant : Obligations.StepKeepsTheInvariant := by
  intro s t ⟨hdmem, himem, hzero, hpend, hrecent⟩ h
  rcases step_next h with ⟨-, rfl⟩ | ⟨w, i, u, -, -, -, hd, -, hu, rfl⟩
  · exact ⟨hdmem, himem, fun _ hg => by simpa using hg, fun hne => absurd rfl hne, by simp⟩
  · obtain ⟨h1, -, -, h4, -⟩ := exec_sameRest hu
    refine ⟨(exec_dmem_wf hdmem hu :), ?_, ?_, fun hne => ⟨i, hd, ?_⟩, by simp⟩
    · rwa [retire_imem, h1]
    · intro hp hg
      rw [retire_cfg, h4] at hp hg
      exact (exec_keeps_zero hp (hzero hp hg) hu :)
    · exact ((exec_pc_pend hu).2.resolve_left hne).1

/-- Settles O15, by what a completed instruction and the reset step keep. -/
theorem stepKeepsProgramAndParameters : Obligations.StepKeepsProgramAndParameters := by
  intro s t h
  rcases step_next h with ⟨-, rfl⟩ | ⟨w, i, u, -, -, -, -, -, hu, rfl⟩
  · exact ⟨rfl, rfl, rfl, rfl⟩
  · obtain ⟨himem, hholes, hpin, hcfg, -⟩ := exec_sameRest hu
    exact ⟨himem, hcfg, hholes, hpin⟩

/-- Settles O19: of the shapes of a completed instruction only the taken transfers leave a branch pending. -/
theorem onlyControlTransfersLeaveABranchPending : Obligations.OnlyControlTransfersLeaveABranchPending := by
  intro i s t a h ha
  obtain ⟨hpc, hpend⟩ := exec_pc_pend h
  obtain ⟨hc, hp⟩ := hpend.resolve_left (by simp [ha])
  exact ⟨hc, hp, by simp [hpc, nextPc, hp]⟩

/-- A step with the Reset pin at 0 goes on at the pending target in a delay slot, else at the next word; it leaves no
branch pending in a delay slot; and the pin stays at 0. -/
theorem step_pc_pend {s t : State} (hr : s.resetPin = false) (h : step s = .next t) :
    t.resetPin = false ∧ t.pc = nextPc s ∧ (s.pend ≠ none → t.pend = none) := by
  obtain ⟨w, i, u, -, hu, rfl⟩ := step_next_of_running hr h
  obtain ⟨hpc, hpend⟩ := exec_pc_pend hu
  exact ⟨(exec_sameRest hu).resetPin.trans hr, hpc, fun hne => hpend.resolve_right fun hc => hne hc.2⟩

/-- Settles O16, by `step_pc_pend` for each of the two steps. -/
theorem delaySlotThenTarget : Obligations.DelaySlotThenTarget := by
  intro s t u hr hp ht hu
  obtain ⟨hr', hpc, -⟩ := step_pc_pend hr ht
  obtain ⟨-, hpc', hpend'⟩ := step_pc_pend hr' hu
  have hslot : t.pc = s.pc + 4 := by simp [hpc, nextPc, hp]
  refine ⟨hslot, fun a ha => ⟨by simp [hpc', nextPc, ha], hpend' (by simp [ha])⟩, fun hn => ?_⟩
  rw [hpc', nextPc, hn, hslot, BitVec.add_assoc]
  rfl

/-! ### The fetch and the stops of a step -/

theorem isAligned_iff (a : Word) (n : Nat) : isAligned a n = true ↔ a.toNat % n = 0 := by
  simp [isAligned]

theorem fetch_misaligned {s : State} (h : s.pc.toNat % 4 ≠ 0) : fetch s = .fault .misalignedFetch := by
  rw [fetch, if_neg (mt (isAligned_iff _ _).1 h)]

theorem fetch_no_word {s : State} (h : s.pc.toNat % 4 = 0) (hw : cellRead s.pc.toNat s.imem = none) :
    fetch s = .refused .noInstructionWord := by
  rw [fetch, if_pos ((isAligned_iff _ _).2 h), hw]

theorem fetch_illegal {s : State} {w : Word} {e : Illegal} (h : s.pc.toNat % 4 = 0)
    (hw : cellRead s.pc.toNat s.imem = some w) (hd : decode w = .error e) :
    fetch s = .fault .illegalEncoding := by
  rw [fetch, if_pos ((isAligned_iff _ _).2 h), hw]
  simp only [hd]

theorem fetch_decoded {s : State} {w : Word} {i : Instr} (h : s.pc.toNat % 4 = 0)
    (hw : cellRead s.pc.toNat s.imem = some w) (hd : decode w = .ok i) : fetch s = .next (w, i) := by
  rw [fetch, if_pos ((isAligned_iff _ _).2 h), hw]
  simp only [hd]

theorem step_of_fetch_fault {s : State} {f : Fault} (hr : s.resetPin = false) (h : fetch s = .fault f) :
    step s = .fault f := by
  simp [step, hr, h, andThen]

theorem step_of_fetch_refused {s : State} {r : Refusal} (hr : s.resetPin = false) (h : fetch s = .refused r) :
    step s = .refused r := by
  simp [step, hr, h, andThen]

/-- A step that has fetched an instruction faults on a hazard, else executes and retires the instruction. -/
theorem step_of_fetch_next {s : State} {w : Word} {i : Instr} (hr : s.resetPin = false)
    (h : fetch s = .next (w, i)) : step s = if readsTooSoon i s then .fault .rawHazard
      else andThen (exec i s) fun t => .next (retire w i s t) := by
  simp [step, hr, h, andThen]

/-- Settles O10, by the three stops of the fetch. -/
theorem stepStopsBeforeExecuting : Obligations.StepStopsBeforeExecuting :=
  fun _ hr => ⟨fun h => step_of_fetch_fault hr (fetch_misaligned h),
    fun h hw => step_of_fetch_refused hr (fetch_no_word h hw),
    fun _ _ h hw hd => step_of_fetch_fault hr (fetch_illegal h hw hd)⟩

/-- Settles O9, by the three outcomes of the execution. -/
theorem stepRunsTheDecodedInstruction : Obligations.StepRunsTheDecodedInstruction := by
  intro s w i hr ha hw hd hz
  have hstep : step s = andThen (exec i s) fun t => .next (retire w i s t) := by
    rw [step_of_fetch_next hr (fetch_decoded ha hw hd), hz]
    rfl
  refine ⟨fun t h => ?_, fun f h => ?_, fun r h => ?_⟩
  all_goals
    rw [hstep, h]
    rfl

/-- Settles O18: the slot's step goes on at the pending target, where the fetch faults. -/
theorem misalignedTargetFaultsAtItsFetch : Obligations.MisalignedTargetFaultsAtItsFetch := by
  intro s t a hr hp ha h
  obtain ⟨hr', hpc, -⟩ := step_pc_pend hr h
  have htarget : t.pc = a := by simp [hpc, nextPc, hp]
  exact step_of_fetch_fault hr' (fetch_misaligned (htarget ▸ ha))

/-- Settles O17: each of the six control transfers asks first whether it stands in a slot. -/
theorem controlTransferInSlotFaults : Obligations.ControlTransferInSlotFaults := by
  intro i s hc hp
  have hslot (f : Result State) : outsideSlot s f = .fault .controlInDelaySlot := by
    simp [outsideSlot, Option.isSome_iff_ne_none, hp]
  cases i
  case beqz | bnez | j | jal | jr | jalr => exact hslot _
  all_goals cases hc

/-! ### Reset -/

theorem step_of_resetPin {s : State} (h : s.resetPin = true) : step s = .next (takeReset s) := by
  simp [step, h]

/-- Settles O11, by the fields of the reset state; taking the reset once more sets them to the same values. -/
theorem resetStepResets : Obligations.ResetStepResets := fun s h =>
  ⟨takeReset s, step_of_resetPin h, rfl, rfl, fun r => by simp, rfl, rfl, readByte_congr rfl, rfl, rfl, h, rfl,
    step_of_resetPin h⟩

/-- Settles O12, by the fields of the reset state. -/
theorem resetStateValues : Obligations.ResetStateValues :=
  ⟨rfl, rfl, fun r => by simp [readReg, State.reset, Config.default], rfl, rfl, rfl⟩

/-- Settles O13: the memories are empty, the registers hold 0, and nothing is pending or recent. -/
theorem invariantHoldsAtReset : Obligations.InvariantHoldsAtReset :=
  ⟨reset_dmem_wf, reset_imem_wf, fun _ _ => by simp [State.reset, Config.default], fun h => absurd rfl h,
    by simp [State.reset]⟩

end Sys2Proof.Stepping
end

section
/-! PROOFS. The instructions that compute a register from registers and an immediate (spec/40_arithmetic.md to
spec/43_set.md, and LHI): each is `finishWith` of a word, so that what is left is an equation between words. -/

namespace Sys2Proof.Computing

open Sys2Proof Sys2Proof.Machine

/-- An instruction whose execution is `finishWith` of a word computes that word. -/
theorem computes_of_finishWith {i : Instr} {s : State} {r : RegNum} {v w : Word}
    (hx : exec i s = finishWith s r w) (hw : w = v) : Computes i s r v := by
  subst hw
  intro ha
  rw [hx]
  exact finishWith_computed ha

/-! ### Arithmetic -/

/-- The immediate of ADDUI, SUBUI, ANDI, ORI, XORI as a number (rule R79). -/
theorem unsignedImm_eq_ofInt (c : Config) (imm : Half) :
    unsignedImm c imm = BitVec.ofInt 32 (if c.uimmZext then imm.toNat else imm.toInt) := by
  unfold unsignedImm
  split
  · rw [zext_eq_ofNat, BitVec.ofInt_natCast]
  · exact sext_eq_ofInt imm

/-- Settles O27: the signed and the unsigned forms are one sum and one difference of words. -/
theorem addAndSubtractRegisters : Obligations.AddAndSubtractRegisters := by
  intro s rs0 rs1 rd a b
  have hadd := add_eq_ofInt (eq_ofInt_toNat (readReg s rs0)) (eq_ofInt_toNat (readReg s rs1))
  have hsub := sub_eq_ofInt (eq_ofInt_toNat (readReg s rs0)) (eq_ofInt_toNat (readReg s rs1))
  exact ⟨computes_of_finishWith rfl hadd, computes_of_finishWith rfl hadd, computes_of_finishWith rfl hsub,
    computes_of_finishWith rfl hsub⟩

/-- Settles O28, each immediate by the number it extends to. -/
theorem addAndSubtractImmediates : Obligations.AddAndSubtractImmediates := by
  intro s rs0 rs1 imm a u
  have ha := eq_ofInt_toNat (readReg s rs0)
  have hi := sext_eq_ofInt imm
  have hu := unsignedImm_eq_ofInt s.cfg imm
  exact ⟨computes_of_finishWith rfl (add_eq_ofInt ha hi), computes_of_finishWith rfl (add_eq_ofInt ha hu),
    computes_of_finishWith rfl (sub_eq_ofInt ha hi), computes_of_finishWith rfl (sub_eq_ofInt ha hu)⟩

/-- Modulo 2^32 the signed product is the unsigned one. -/
theorem ofInt_toInt_mul_toInt (a b : Word) :
    BitVec.ofInt 32 (a.toInt * b.toInt) = BitVec.ofNat 32 (a.toNat * b.toNat) := by
  rw [BitVec.ofInt_mul, BitVec.ofInt_toInt, BitVec.ofInt_toInt, BitVec.mul_def]
  rfl

/-- Settles O29: the low word of a product is the same for both signs, the high word is a quotient by 2^32. -/
theorem products : Obligations.Products := by
  intro s rs0 rs1 rd a b
  refine ⟨fun hm => ⟨computes_of_finishWith rfl ?_, computes_of_finishWith rfl ?_⟩,
    fun hm => ⟨computes_of_finishWith rfl ?_, computes_of_finishWith rfl ?_⟩⟩
  all_goals simp only [hm, productPart]
  case refine_1 => exact ofInt_toInt_mul_toInt a b
  case refine_2 => exact BitVec.ofInt_natCast 32 (a.toNat * b.toNat)
  case refine_3 => rfl
  case refine_4 => exact BitVec.ofInt_natCast 32 (a.toNat * b.toNat / 2 ^ 32)

/-- DIV of operands with a quotient in range (rule R112). -/
theorem exec_div {s : State} {rs0 rs1 : RegNum} (rd : RegNum) (hb : (readReg s rs1).toInt ≠ 0)
    (ho : ¬((readReg s rs0).toInt = -2 ^ 31 ∧ (readReg s rs1).toInt = -1)) :
    exec (.div rs0 rs1 rd) s =
      finishWith s rd (BitVec.ofInt 32 (Int.tdiv (readReg s rs0).toInt (readReg s rs1).toInt)) :=
  (if_neg hb).trans (if_neg ho)

/-- DIV by 0 writes the next draw DIV0 (rule R114). -/
theorem exec_div_zero {s : State} {rs0 rs1 : RegNum} (rd : RegNum) (hb : (readReg s rs1).toInt = 0) :
    exec (.div rs0 rs1 rd) s = finishWith (afterDraw s) rd (Config.divByZero s.draws) :=
  if_pos hb

/-- DIV of -2^31 by -1 writes the next draw DIVOVF (rule R114). -/
theorem exec_div_overflow {s : State} {rs0 rs1 : RegNum} (rd : RegNum) (ha : (readReg s rs0).toInt = -2 ^ 31)
    (hb : (readReg s rs1).toInt = -1) :
    exec (.div rs0 rs1 rd) s = finishWith (afterDraw s) rd (Config.divOverflow s.draws) :=
  (if_neg (by simp [hb])).trans (if_pos ⟨ha, hb⟩)

/-- DIVU by a divisor other than 0 (rule R113). -/
theorem exec_divu {s : State} {rs0 rs1 : RegNum} (rd : RegNum) (hb : (readReg s rs1).toNat ≠ 0) :
    exec (.divu rs0 rs1 rd) s = finishWith s rd (BitVec.ofNat 32 ((readReg s rs0).toNat / (readReg s rs1).toNat)) :=
  if_neg hb

/-- DIVU by 0 writes the next draw DIV0 (rule R114). -/
theorem exec_divu_zero {s : State} {rs0 rs1 : RegNum} (rd : RegNum) (hb : (readReg s rs1).toNat = 0) :
    exec (.divu rs0 rs1 rd) s = finishWith (afterDraw s) rd (Config.divByZero s.draws) :=
  if_pos hb

/-- Settles O30: the quotient rounded toward zero is the one of the sizes with the sign of the product. -/
theorem signedQuotient : Obligations.SignedQuotient := fun _ _ _ rd hb ho =>
  computes_of_finishWith (exec_div rd hb ho) (congrArg (BitVec.ofInt 32) (tdiv_eq_sign_mul _ _))

/-- Settles O31, by the branch of DIVU for a divisor other than 0. -/
theorem unsignedQuotient : Obligations.UnsignedQuotient := fun _ _ _ rd hb =>
  computes_of_finishWith (exec_divu rd hb) rfl

/-- Settles O32, by the three branches of DIV and DIVU that make a draw. -/
theorem divisionCornersCompleteWithADraw : Obligations.DivisionCornersCompleteWithADraw := by
  intro s rs0 rs1 rd a b
  refine ⟨fun hb hacc => ⟨?_, ?_⟩, fun ha hb hacc => ?_⟩
  · rw [exec_div_zero rd (show b.toInt = 0 by rw [hb]; rfl)]
    exact finishWith_drew hacc
  · rw [exec_divu_zero rd (show b.toNat = 0 by rw [hb]; rfl)]
    exact finishWith_drew hacc
  · rw [exec_div_overflow rd (show a.toInt = -2 ^ 31 by rw [ha]; rfl) (show b.toInt = -1 by rw [hb]; rfl)]
    exact finishWith_drew hacc

/-! ### Logical -/

section
variable {a b v : Word}

theorem and_eq_of_bits (h : ∀ k < 32, v.getLsbD k = (a.getLsbD k && b.getLsbD k)) : a &&& b = v :=
  BitVec.eq_of_getLsbD_eq fun k hk => by rw [BitVec.getLsbD_and, h k hk]

theorem or_eq_of_bits (h : ∀ k < 32, v.getLsbD k = (a.getLsbD k || b.getLsbD k)) : a ||| b = v :=
  BitVec.eq_of_getLsbD_eq fun k hk => by rw [BitVec.getLsbD_or, h k hk]

theorem xor_eq_of_bits (h : ∀ k < 32, v.getLsbD k = (a.getLsbD k != b.getLsbD k)) : a ^^^ b = v :=
  BitVec.eq_of_getLsbD_eq fun k hk => by rw [BitVec.getLsbD_xor, h k hk]

end

/-- Settles O33: the encodings by the RR format, the results bit by bit. -/
theorem logicalRegisters : Obligations.LogicalRegisters := fun _ _ _ _ =>
  ⟨rfl, rfl, rfl, fun _ h => computes_of_finishWith rfl (and_eq_of_bits h),
    fun _ h => computes_of_finishWith rfl (or_eq_of_bits h), fun _ h => computes_of_finishWith rfl (xor_eq_of_bits h)⟩

/-- The immediate of ADDUI, SUBUI, ANDI, ORI, XORI bit by bit (rule R126). -/
theorem unsignedImm_bits (c : Config) (imm : Half) {k : Nat} (hk : k < 32) :
    (unsignedImm c imm).getLsbD k = if k < 16 then imm.getLsbD k else !c.uimmZext && imm.getLsbD 15 := by
  unfold unsignedImm
  cases c.uimmZext
  · rw [if_neg (by decide), sext, BitVec.getLsbD_signExtend, BitVec.msb_eq_getLsbD_last]
    simp [hk]
  · by_cases h : k < 16
    · simp [zext, hk, h]
    · simp [zext, h, BitVec.getLsbD_of_ge imm k (by omega)]

/-- Settles O34: the extended immediate is the word with the given bits, and the results follow bit by bit. -/
theorem logicalImmediates : Obligations.LogicalImmediates := by
  intro s rs0 rs1 imm m hm a
  obtain rfl : unsignedImm s.cfg imm = m :=
    BitVec.eq_of_getLsbD_eq fun k hk => by rw [unsignedImm_bits s.cfg imm hk, hm k hk]
  exact ⟨fun _ h => computes_of_finishWith rfl (and_eq_of_bits h),
    fun _ h => computes_of_finishWith rfl (or_eq_of_bits h), fun _ h => computes_of_finishWith rfl (xor_eq_of_bits h)⟩

/-! ### Shift -/

/-- Settles O35, by the shifts as multiplication and division by a power of 2. -/
theorem shiftsByRegister : Obligations.ShiftsByRegister := fun _ _ _ _ =>
  ⟨computes_of_finishWith rfl (shiftLeft_eq_ofNat _ _), computes_of_finishWith rfl (ushiftRight_eq_ofNat _ _),
    computes_of_finishWith rfl (sshiftRight_eq_ofInt _ _)⟩

/-- Settles O36, by the shifts as multiplication and division by a power of 2. -/
theorem shiftsByImmediate : Obligations.ShiftsByImmediate := fun _ _ _ _ =>
  ⟨computes_of_finishWith rfl (shiftLeft_eq_ofNat _ _), computes_of_finishWith rfl (ushiftRight_eq_ofNat _ _),
    computes_of_finishWith rfl (sshiftRight_eq_ofInt _ _)⟩

/-! ### Set -/

/-- What a set instruction writes for a condition that is a proposition about numbers (rule R140). -/
theorem setWord_decide (p : Prop) [Decidable p] : setWord (decide p) = if p then 1 else 0 := by
  simp [setWord]

/-- What SEQ and SEQI write: two words are equal exactly when they are equal as signed numbers. -/
theorem setWord_isEqual (a b : Word) : setWord (isEqual a b) = if a.toInt = b.toInt then 1 else 0 := by
  simp [isEqual, setWord, BitVec.toInt_inj]

/-- What SNE and SNEI write. -/
theorem setWord_not_isEqual (a b : Word) : setWord (!isEqual a b) = if a.toInt = b.toInt then 0 else 1 := by
  simp [isEqual, setWord, BitVec.toInt_inj, ite_not]

/-- Settles O37: each condition is a comparison of the signed numbers. -/
theorem setsOnRegisters : Obligations.SetsOnRegisters := fun _ _ _ _ =>
  ⟨computes_of_finishWith rfl (setWord_decide _), computes_of_finishWith rfl (setWord_decide _),
    computes_of_finishWith rfl (setWord_decide _), computes_of_finishWith rfl (setWord_decide _),
    computes_of_finishWith rfl (setWord_isEqual _ _), computes_of_finishWith rfl (setWord_not_isEqual _ _)⟩

/-- Settles O38: the immediate keeps its number when it is sign-extended. -/
theorem setsOnImmediates : Obligations.SetsOnImmediates := by
  intro s rs0 rs1 imm a
  have hi : (sext imm).toInt = imm.toInt := sext_toInt (by decide) imm
  rw [← hi]
  exact ⟨computes_of_finishWith rfl (setWord_decide _), computes_of_finishWith rfl (setWord_decide _),
    computes_of_finishWith rfl (setWord_decide _), computes_of_finishWith rfl (setWord_decide _),
    computes_of_finishWith rfl (setWord_isEqual _ _), computes_of_finishWith rfl (setWord_not_isEqual _ _)⟩

/-! ### Load high -/

/-- Settles O39: the zeros appended below the immediate multiply it by 2^16. -/
theorem loadHigh : Obligations.LoadHigh := by
  intro s rs0 rs1 imm
  refine computes_of_finishWith rfl (BitVec.eq_of_toNat_eq ?_)
  have h := imm.isLt
  rw [highImm, toNat_append_eq, BitVec.toNat_ofNat, BitVec.toNat_ofNat, Nat.zero_mod, Nat.add_zero,
    Nat.mod_eq_of_lt (by omega)]

/-- A register other than 0 takes every word and reads as the word written to it. -/
theorem computes_of_ne_zero {i : Instr} {s : State} {r : RegNum} {v : Word} (hr : r ≠ 0) (h : Computes i s r v) :
    ∃ t, exec i s = .next t ∧ readReg t r = v ∧ t.cfg = s.cfg := by
  obtain ⟨t, ht, hc⟩ := h fun ha => hr ha.1
  refine ⟨t, ht, ?_, hc.rest.cfg⟩
  rw [hc.register.value, landed, if_neg fun ha => hr ha.1]

/-- The two halves of a word, put together by OR. -/
theorem highImm_or_zext (hi lo : Half) : highImm hi ||| zext lo = hi ++ lo := by
  apply BitVec.eq_of_getLsbD_eq
  intro k hk
  simp only [highImm, zext, BitVec.getLsbD_or, BitVec.getLsbD_append, BitVec.getLsbD_setWidth, hk]
  by_cases h : k < 16
  · simp [h]
  · simp [h, BitVec.getLsbD_of_ge lo k (by omega)]

/-- Settles O40: ORI reads the upper half that LHI left. -/
theorem loadHighThenOrBuildsAWord : Obligations.LoadHighThenOrBuildsAWord := by
  intro s rs0 r hi lo hr hz
  obtain ⟨t, ht, hval, hcfg⟩ := computes_of_ne_zero hr
    (computes_of_finishWith (i := .lhi rs0 r hi) (s := s) rfl rfl)
  obtain ⟨u, hu, hval', -⟩ := computes_of_ne_zero hr
    (computes_of_finishWith (i := .ori r r lo) (s := t) rfl rfl)
  refine ⟨t, u, ht, hu, ?_⟩
  rw [hval', hval, hcfg, unsignedImm, hz]
  exact highImm_or_zext hi lo

end Sys2Proof.Computing
end

section
/-! PROOFS. The loads and the stores (spec/44_load_store.md): the effective address, the stops before an access, and
the bytes of an access as numbers. -/

namespace Sys2Proof.Accessing

open Sys2Proof Sys2Proof.Machine Sys2Proof.Stepping Sys2Proof.Computing

/-- Settles O41: the sum of words is the sum of numbers modulo 2^32. -/
theorem effectiveAddressIsBasePlusDisplacement : Obligations.EffectiveAddressIsBasePlusDisplacement := by
  intro s rs0 imm
  rw [effectiveAddress, add_eq_ofInt (eq_ofInt_toNat (readReg s rs0)) (sext_eq_ofInt imm), BitVec.toNat_ofInt]
  exact Int.toNat_of_nonneg (Int.emod_nonneg _ (by decide))

/-! ### The stops before an access -/

theorem loadInto_misaligned {s : State} {a : Word} {n : Nat} {r : RegNum} {v : Word} (h : a.toNat % n ≠ 0) :
    loadInto s a n r v = .fault .misalignedData := by
  rw [loadInto, checkAccess_misaligned (by simpa [isAligned] using h)]
  rfl

theorem storeAt_misaligned {s : State} {a : Word} {bs : List Byte} (h : a.toNat % bs.length ≠ 0) :
    storeAt s a bs = .fault .misalignedData := by
  rw [storeAt, checkAccess_misaligned (by simpa [isAligned] using h)]
  rfl

theorem loadInto_unbacked {s : State} {a : Word} {n : Nat} {r : RegNum} {v : Word} (h : a.toNat % n = 0)
    (hb : ¬ Backed s a n) : loadInto s a n r v = .refused .neverAcknowledged := by
  rw [loadInto, checkAccess_unbacked ((isAligned_iff a n).2 h) hb]
  rfl

theorem storeAt_unbacked {s : State} {a : Word} {bs : List Byte} (h : a.toNat % bs.length = 0)
    (hb : ¬ Backed s a bs.length) : storeAt s a bs = .refused .neverAcknowledged := by
  rw [storeAt, checkAccess_unbacked ((isAligned_iff a _).2 h) hb]
  rfl

/-- Settles O46, by the alignment check of the loads and of the stores. -/
theorem misalignedAccessesFault : Obligations.MisalignedAccessesFault := fun _ _ _ _ =>
  ⟨fun h => ⟨loadInto_misaligned h, loadInto_misaligned h, storeAt_misaligned (by rwa [length_splitHalf])⟩,
    fun h => ⟨loadInto_misaligned h, storeAt_misaligned (by rwa [length_splitWord])⟩⟩

/-- Settles O47, by the handshake of the loads and of the stores. -/
theorem unbackedAccessesAreNeverAcknowledged : Obligations.UnbackedAccessesAreNeverAcknowledged := fun _ _ _ _ =>
  ⟨fun hb => ⟨loadInto_unbacked (Nat.mod_one _) hb, loadInto_unbacked (Nat.mod_one _) hb,
      storeAt_unbacked (Nat.mod_one _) hb⟩,
    fun h hb => ⟨loadInto_unbacked h hb, loadInto_unbacked h hb,
      storeAt_unbacked (by rwa [length_splitHalf]) (by rwa [length_splitHalf])⟩,
    fun h hb => ⟨loadInto_unbacked h hb,
      storeAt_unbacked (by rwa [length_splitWord]) (by rwa [length_splitWord])⟩⟩

/-! ### Loads -/

/-- A load from an aligned, backed address computes the word it loads. -/
theorem computes_of_loadInto {i : Instr} {s : State} {a : Word} {n : Nat} {r : RegNum} {v w : Word}
    (hx : exec i s = loadInto s a n r w) (h : a.toNat % n = 0) (hb : Backed s a n) (hw : w = v) :
    Computes i s r v :=
  computes_of_finishWith (hx.trans (loadInto_eq ((isAligned_iff a n).2 h) hb r w)) hw

/-- Two bytes as a number, in each byte order (rule R41). -/
theorem joinHalf_eq_ofNat (e : Endian) (b0 b1 : Byte) : joinHalf e b0 b1 =
    BitVec.ofNat 16 (if e = .big then b0.toNat * 2 ^ 8 + b1.toNat else b1.toNat * 2 ^ 8 + b0.toNat) := by
  apply BitVec.eq_of_toNat_eq
  have h0 := b0.isLt
  have h1 := b1.isLt
  cases e <;> simp only [joinHalf, toNat_append_eq, BitVec.toNat_ofNat, reduceCtorEq, if_true, if_false] <;> omega

/-- Four bytes as a number, in each byte order (rule R41). -/
theorem joinWord_eq_ofNat (e : Endian) (b0 b1 b2 b3 : Byte) : joinWord e b0 b1 b2 b3 = BitVec.ofNat 32
    (if e = .big then b0.toNat * 2 ^ 24 + b1.toNat * 2 ^ 16 + b2.toNat * 2 ^ 8 + b3.toNat
      else b3.toNat * 2 ^ 24 + b2.toNat * 2 ^ 16 + b1.toNat * 2 ^ 8 + b0.toNat) := by
  apply BitVec.eq_of_toNat_eq
  have h0 := b0.isLt
  have h1 := b1.isLt
  have h2 := b2.isLt
  have h3 := b3.isLt
  cases e <;> simp only [joinWord, toNat_append_eq, BitVec.toNat_ofNat, reduceCtorEq, if_true, if_false] <;> omega

/-- Settles O42: a byte access is always aligned, and the extensions keep the byte's number. -/
theorem loadByte : Obligations.LoadByte := fun _ _ _ _ hb =>
  ⟨computes_of_loadInto rfl (Nat.mod_one _) hb (sext_eq_ofInt _),
    computes_of_loadInto rfl (Nat.mod_one _) hb (zext_eq_ofNat _)⟩

/-- Settles O43, by the two bytes as a number. -/
theorem loadHalfword : Obligations.LoadHalfword := by
  intro s rs0 rs1 imm ea b0 b1 h ha hb
  have hread : readHalf s ea = h := joinHalf_eq_ofNat s.cfg.endian (readByte s ea) (readByte s (ea + 1))
  rw [← hread]
  exact ⟨computes_of_loadInto rfl ha hb (sext_eq_ofInt _), computes_of_loadInto rfl ha hb (zext_eq_ofNat _)⟩

/-- Settles O44, by the four bytes as a number. -/
theorem loadWord : Obligations.LoadWord := fun _ _ _ _ ha hb =>
  computes_of_loadInto rfl ha hb (joinWord_eq_ofNat _ _ _ _ _)

/-! ### Stores -/

/-- The bytes of the low halfword of a word as numbers, in each byte order (rule R41). -/
theorem splitHalf_eq (e : Endian) (x : Word) : splitHalf e (x.extractLsb' 0 16) =
    if e = .big then [BitVec.ofNat 8 (x.toNat / 2 ^ 8), BitVec.ofNat 8 x.toNat]
      else [BitVec.ofNat 8 x.toNat, BitVec.ofNat 8 (x.toNat / 2 ^ 8)] := by
  have h0 : (x.extractLsb' 0 16).extractLsb' 0 8 = BitVec.ofNat 8 x.toNat := by
    apply BitVec.eq_of_toNat_eq
    simp
  have h8 : (x.extractLsb' 0 16).extractLsb' 8 8 = BitVec.ofNat 8 (x.toNat / 2 ^ 8) := by
    apply BitVec.eq_of_toNat_eq
    simp [Nat.shiftRight_eq_div_pow]
  cases e <;> simp [splitHalf, h0, h8]

/-- The bytes of a word as numbers, in each byte order (rule R41). -/
theorem splitWord_eq (e : Endian) (x : Word) : splitWord e x =
    if e = .big then [BitVec.ofNat 8 (x.toNat / 2 ^ 24), BitVec.ofNat 8 (x.toNat / 2 ^ 16),
        BitVec.ofNat 8 (x.toNat / 2 ^ 8), BitVec.ofNat 8 x.toNat]
      else [BitVec.ofNat 8 x.toNat, BitVec.ofNat 8 (x.toNat / 2 ^ 8), BitVec.ofNat 8 (x.toNat / 2 ^ 16),
        BitVec.ofNat 8 (x.toNat / 2 ^ 24)] := by
  cases e <;> simp [splitWord, byteOf_eq_ofNat]

/-- An aligned, backed store of at most a word completes with its bytes stored. -/
theorem stored_of_storeAt {i : Instr} {s : State} {a : Word} {bs cs : List Byte} {n : Nat}
    (hx : exec i s = storeAt s a bs) (hn : bs.length = n) (hle : n ≤ 4) (h : a.toNat % n = 0) (hb : Backed s a n)
    (hc : bs = cs) : ∃ t, exec i s = .next t ∧ Stored s t a cs := by
  subst hn hc
  rw [hx]
  exact storeAt_stored ((isAligned_iff a _).2 h) hb (by omega)

/-- Settles O45, by the bytes of a word as numbers. -/
theorem stores : Obligations.Stores := by
  intro s rs0 rs1 imm ea x c0 c1 c2 c3
  refine ⟨fun hb => stored_of_storeAt (n := 1) rfl rfl (by decide) (Nat.mod_one _) hb ?_,
    fun h hb => stored_of_storeAt rfl (length_splitHalf _ _) (by decide) h hb (splitHalf_eq _ _),
    fun h hb => stored_of_storeAt rfl (length_splitWord _ _) (by decide) h hb (splitWord_eq _ _)⟩
  rw [byteOf_eq_ofNat, Nat.pow_zero, Nat.div_one]

/-! ### A store and a load of the same address -/

/-- After a completed store of the four bytes of a word the word reads back. -/
theorem readWord_of_stored {s t : State} {a x : Word} (h : Stored s t a (splitWord s.cfg.endian x)) :
    readWord t a = x := by
  obtain ⟨b0, b1, b2, b3, hbs, hjoin⟩ := joinWord_bytes s.cfg.endian x
  obtain ⟨-, hstored, -, hrest, -⟩ := h
  rw [hbs] at hstored
  have h0 : readByte t a = b0 := by simpa using hstored 0 (by simp)
  have h1 : readByte t (a + 1) = b1 := hstored 1 (by simp)
  have h2 : readByte t (a + 2) = b2 := hstored 2 (by simp)
  have h3 : readByte t (a + 3) = b3 := hstored 3 (by simp)
  rw [readWord, hrest.cfg, h0, h1, h2, h3, hjoin]

/-- After a completed store of the four bytes of a word the first byte is the one that ENDIAN puts first. -/
theorem readByte_of_stored {s t : State} {a x : Word} (h : Stored s t a (splitWord s.cfg.endian x)) :
    (readByte t a).toNat = if s.cfg.endian = .big then x.toNat / 2 ^ 24 else x.toNat % 2 ^ 8 := by
  have h0 := h.stored 0 (by simp)
  rw [BitVec.add_zero] at h0
  have hx := x.isLt
  rw [h0]
  cases he : s.cfg.endian <;> simp [splitWord, Nat.shiftRight_eq_div_pow]
  omega

/-- Settles O48: the store changes neither the address of the load nor the platform, so the load reads the stored
bytes. -/
theorem storeThenLoadReturnsTheBytes : Obligations.StoreThenLoadReturnsTheBytes := by
  intro s rs0 rs1 r imm ea x ha hb hr
  obtain ⟨t, ht, hst⟩ := stored_of_storeAt (i := .sw rs0 rs1 imm) rfl (length_splitWord _ _) (by decide) ha hb rfl
  have hea : effectiveAddress t rs0 imm = ea := by rw [effectiveAddress, hst.registers]; rfl
  have hb' : ∀ n ≤ 4, Backed t ea n := by
    intro n hn k hk
    rw [hst.rest.holes]
    exact hb k (by omega)
  refine ⟨t, ht, ?_, ?_⟩
  · obtain ⟨u, hu, hval, -⟩ := computes_of_ne_zero hr
      (computes_of_loadInto (i := .lw rs0 r imm) (s := t) rfl (hea ▸ ha) (hea ▸ hb' 4 le_rfl) rfl)
    refine ⟨u, hu, ?_⟩
    rw [hval, hea, readWord_of_stored hst]
  · obtain ⟨u, hu, hval, -⟩ := computes_of_ne_zero hr
      (computes_of_loadInto (i := .lbu rs0 r imm) (s := t) rfl (Nat.mod_one _) (hea ▸ hb' 1 (by decide)) rfl)
    refine ⟨u, hu, ?_⟩
    rw [hval, hea]
    exact (BitVec.toNat_setWidth_of_le (by decide)).trans (readByte_of_stored hst)

end Sys2Proof.Accessing
end

section
/-! PROOFS. The control transfers outside a slot (spec/45_control.md). -/

namespace Sys2Proof.Transferring

open Sys2Proof Sys2Proof.Machine

/-! ### The targets as numbers -/

/-- A left shift multiplies the number, in either reading. -/
theorem shiftLeft_eq_ofInt {a : Word} {x : Int} (h : a = BitVec.ofInt 32 x) (n : Nat) :
    a <<< n = BitVec.ofInt 32 (x * 2 ^ n) := by
  have hpow : BitVec.ofInt 32 ((2 : Int) ^ n) = BitVec.twoPow 32 n := by
    rw [show (2 : Int) ^ n = ((2 ^ n : Nat) : Int) by norm_cast, BitVec.ofInt_natCast]
    apply BitVec.eq_of_toNat_eq
    simp
  rw [BitVec.ofInt_mul, ← h, hpow, BitVec.shiftLeft_eq_mul_twoPow]

/-- The base of a transfer plus its scaled signed offset (rules R181, R182). -/
theorem target_eq_ofInt {n : Nat} (pc base : Word) (offset : BitVec n) (k : Nat) :
    pc + base + sext offset <<< k = BitVec.ofInt 32 (pc.toNat + base.toNat + offset.toInt * 2 ^ k) :=
  add_eq_ofInt (add_eq_ofInt (eq_ofInt_toNat pc) (eq_ofInt_toNat base)) (shiftLeft_eq_ofInt (sext_eq_ofInt offset) k)

/-! ### What an untaken and a taken transfer leave -/

theorem outsideSlot_of_pend {s : State} (h : s.pend = none) (f : Result State) : outsideSlot s f = f := by
  simp [outsideSlot, h]

theorem onlyMoved_advance (s : State) : OnlyMoved s (advance s) :=
  ⟨fun _ => rfl, ⟨rfl, readByte_congr rfl⟩, ⟨rfl, rfl, rfl, rfl, rfl, rfl⟩, rfl⟩

theorem onlyMoved_transferTo (s : State) (a : Word) : OnlyMoved s (transferTo s a) :=
  ⟨fun _ => rfl, ⟨rfl, readByte_congr rfl⟩, ⟨rfl, rfl, rfl, rfl, rfl, rfl⟩, rfl⟩

theorem advanced_advance (s : State) : Advanced s (advance s) := ⟨nextPc_eq s, rfl⟩

theorem transferred_transferTo {s : State} (h : s.pend = none) (a : Word) : Transferred s (transferTo s a) a :=
  ⟨by simp [nextPc, h], rfl⟩

/-- A transfer to a target, outside a slot. -/
theorem exec_transfers {i : Instr} {s : State} {a b : Word} (hp : s.pend = none)
    (hx : exec i s = outsideSlot s (.next (transferTo s a))) (ha : a = b) :
    ∃ t, exec i s = .next t ∧ OnlyMoved s t ∧ Transferred s t b := by
  subst ha
  exact ⟨_, hx.trans (outsideSlot_of_pend hp _), onlyMoved_transferTo s a, transferred_transferTo hp a⟩

/-- A transfer that links, outside a slot: the link register takes the return address before the slot. -/
theorem exec_links {i : Instr} {s : State} {r q : RegNum} {v a b : Word} (hp : s.pend = none)
    (hx : exec i s = outsideSlot s (andThen (writeReg s q v) fun t => .next (transferTo t a))) (hq : q = r)
    (ha : a = b) (hacc : Accepts s r v) : ∃ t, exec i s = .next t ∧ Linked s t r v b := by
  subst hq ha
  obtain ⟨w, hw⟩ := writeReg_accepts hacc
  obtain ⟨⟨hcells, hbytes⟩, ⟨h1, h2, h3, h4, h5, h6⟩, hdraws, hpc, hpend⟩ := writeReg_fields hw
  obtain ⟨hvalue, hothers⟩ := writeReg_wrote hw
  refine ⟨transferTo w a, ?_, ⟨hvalue, hothers⟩, ⟨hcells, hbytes⟩, ⟨h1, h2, h3, h4, h5, h6⟩, hdraws, ?_, rfl⟩
  · rw [hx, outsideSlot_of_pend hp, hw]
    rfl
  · simp [nextPc, hpend, hp, hpc]

/-! ### The six transfers -/

/-- The test of BEQZ and BNEZ reads the register as a number (rules R183, R184). -/
theorem isZero_iff (a : Word) : isZero a = true ↔ a.toNat = 0 := by
  simp [isZero, ← BitVec.toNat_inj]

/-- Settles O49, by the two outcomes of the test. -/
theorem conditionalBranches : Obligations.ConditionalBranches := by
  intro s rs0 rs1 imm target hp
  have htarget : branchTarget s imm = target := target_eq_ofInt _ _ _ _
  have hz := isZero_iff (readReg s rs0)
  by_cases h : (readReg s rs0).toNat = 0
  all_goals
    simp only [exec, execBeqz, execBnez, outsideSlot_of_pend hp, hz, h, htarget, if_true, if_false]
  · exact ⟨⟨_, rfl, onlyMoved_transferTo s _, transferred_transferTo hp _⟩,
      _, rfl, onlyMoved_advance s, advanced_advance s⟩
  · exact ⟨⟨_, rfl, onlyMoved_advance s, advanced_advance s⟩,
      _, rfl, onlyMoved_transferTo s _, transferred_transferTo hp _⟩

/-- Settles O50, by a transfer and a transfer that links, to the same target. -/
theorem jumps : Obligations.Jumps := fun _ _ hp =>
  ⟨exec_transfers hp rfl (target_eq_ofInt _ _ _ _), exec_links hp rfl rfl (target_eq_ofInt _ _ _ _)⟩

/-- Settles O51: JALR reads its target from the state before the link. -/
theorem registerJumps : Obligations.RegisterJumps := by
  intro s rs0 rs1 rd link hp
  refine ⟨exec_transfers hp rfl rfl, fun r hr => exec_links hp rfl ?_ rfl⟩
  rcases hr with hr | ⟨hr, rfl⟩ <;> rw [jalrLink, hr]

end Sys2Proof.Transferring
end

section
/-! PROOFS. What holds of all 51 instructions, through one form of an execution: the check of the delay slot, the data
access, the register write, and the state they leave (spec/60_exceptions.md rule R205 gives the order). -/

namespace Sys2Proof.Effects

open Sys2Proof Sys2Proof.Machine

/-! ### One form for every execution -/

/-- What an instruction does once its operands are read. -/
structure Effect where
  /-- it is a control transfer, which faults in a delay slot (rule R189) -/
  control : Bool := false
  /-- its data access (rule R44) -/
  access : Option DataAccess := none
  /-- it makes a draw (rule R114) -/
  draw : Bool := false
  /-- the register it writes, and the word -/
  write : Option (RegNum × Word) := none
  /-- the target it leaves pending (rule R24) -/
  target : Option Word := none

/-- The effect is the one of an instruction: it has its destination, its data access, and its place among the control
transfers. -/
structure Effect.IsOf (e : Effect) (i : Instr) (s : State) : Prop where
  control : e.control = isControl i
  access : e.access = dataAccess i s
  write : e.write.map Prod.fst = destination s.cfg i

/-- The check before a data access, if there is one. -/
def checkOf (s : State) : Option DataAccess → Result Unit
  | none => .next ()
  | some a => checkAccess s (accessBase a) (accessWidth a)

/-- The data memory after an access. -/
def memoryAfter (m : Memory) : Option DataAccess → Memory
  | some (.store a bs) => storeBytes m a bs
  | _ => m

/-- The register file after a write: register 0 discards it under R0_POLICY = hardwired (rule R21). -/
def registersAfter (p : R0Policy) (g : Vector Word 32) : Option (RegNum × Word) → Vector Word 32
  | none => g
  | some (r, v) => if r = 0 ∧ p = .hardwired then g else g.set r.toNat v r.isLt

/-- Register 0 refuses the write (rule R21). -/
def refuses (p : R0Policy) : Option (RegNum × Word) → Bool
  | none => false
  | some (r, v) => r = 0 ∧ p = .refuse ∧ v ≠ 0

/-- The state an effect leaves. -/
def Effect.after (e : Effect) (s : State) : State :=
  { s with
    gpr := registersAfter s.cfg.r0Policy s.gpr e.write
    pc := nextPc s
    pend := e.target
    dmem := memoryAfter s.dmem e.access
    draws := if e.draw then s.draws + 1 else s.draws }

/-- Whether an effect stops, and how: the delay slot, the access, the register, in this order. -/
def Effect.check (e : Effect) (s : State) : Result Unit :=
  if e.control && s.pend.isSome then .fault .controlInDelaySlot
  else andThen (checkOf s e.access) fun _ =>
    if refuses s.cfg.r0Policy e.write then .fault .r0Write else .next ()

/-- The execution of an effect. -/
def Effect.perform (e : Effect) (s : State) : Result State :=
  andThen (e.check s) fun _ => .next (e.after s)

/-- A register write in the terms of an effect. -/
theorem writeReg_eq (s : State) (r : RegNum) (v : Word) : writeReg s r v =
    if refuses s.cfg.r0Policy (some (r, v)) then .fault .r0Write
    else .next { s with gpr := registersAfter s.cfg.r0Policy s.gpr (some (r, v)) } := by
  unfold writeReg registersAfter refuses
  by_cases hr : r = 0
  · cases hp : s.cfg.r0Policy <;> by_cases hv : v = 0 <;> simp_all [putReg]
  · simp_all [putReg]

/-! ### The shapes of an execution are effects -/

theorem finishWith_eq_perform (s : State) (r : RegNum) (v : Word) :
    finishWith s r v = Effect.perform { write := some (r, v) } s := by
  rw [finishWith, writeReg_eq]
  cases h : refuses s.cfg.r0Policy (some (r, v)) <;> simp [Effect.perform, Effect.check, checkOf, andThen, h]
  rfl

theorem finishWith_afterDraw_eq_perform (s : State) (r : RegNum) (v : Word) :
    finishWith (afterDraw s) r v = Effect.perform { write := some (r, v), draw := true } s := by
  rw [finishWith, writeReg_eq, afterDraw_cfg]
  cases h : refuses s.cfg.r0Policy (some (r, v)) <;> simp [Effect.perform, Effect.check, checkOf, andThen, h]
  rfl

theorem loadInto_eq_perform (s : State) (a : Word) (n : Nat) (r : RegNum) (v : Word) :
    loadInto s a n r v = Effect.perform { access := some (.load a n), write := some (r, v) } s := by
  rw [loadInto, finishWith_eq_perform]
  cases h : checkAccess s a n <;>
    simp [Effect.perform, Effect.check, checkOf, accessBase, accessWidth, andThen, h]
  rfl

theorem storeAt_eq_perform (s : State) (a : Word) (bs : List Byte) :
    storeAt s a bs = Effect.perform { access := some (.store a bs) } s := by
  rw [storeAt]
  cases h : checkAccess s a bs.length <;>
    simp [Effect.perform, Effect.check, checkOf, accessBase, accessWidth, andThen, refuses, h]
  rfl

/-- A control transfer is an effect with the check of the delay slot before it. -/
theorem outsideSlot_perform (s : State) {e : Effect} (h : e.control = false) :
    outsideSlot s (e.perform s) = Effect.perform { e with control := true } s := by
  rw [outsideSlot]
  cases hp : s.pend.isSome <;> simp [Effect.perform, Effect.check, andThen, h, hp]
  rfl

theorem untaken_eq_perform (s : State) :
    outsideSlot s (.next (advance s)) = Effect.perform { control := true } s :=
  outsideSlot_perform s (e := {}) rfl

theorem taken_eq_perform (s : State) (a : Word) :
    outsideSlot s (.next (transferTo s a)) = Effect.perform { control := true, target := some a } s :=
  outsideSlot_perform s (e := { target := some a }) rfl

theorem linked_eq_perform (s : State) (r : RegNum) (v a : Word) :
    outsideSlot s (andThen (writeReg s r v) fun t => .next (transferTo t a)) =
      Effect.perform { control := true, write := some (r, v), target := some a } s := by
  rw [← outsideSlot_perform s (e := { write := some (r, v), target := some a }) rfl, writeReg_eq]
  cases h : refuses s.cfg.r0Policy (some (r, v)) <;> simp [Effect.perform, Effect.check, checkOf, andThen, h]
  rfl

/-! ### Every instruction is an effect

The effect is the same in two states that differ in the register file and in R0_POLICY only, if the sources of the
instruction read alike in both.  With the two states equal it says what one execution is. -/

/-- The same machine with other registers and another R0_POLICY. -/
def variant (s : State) (g : Vector Word 32) (p : R0Policy) : State :=
  { s with gpr := g, cfg := { s.cfg with r0Policy := p } }

/-- The outcomes `o` in `s` and `o'` in `s'` are those of one effect, which is an effect of `i`. -/
def SameEffect (i : Instr) (s s' : State) (o o' : Result State) : Prop :=
  ∃ e : Effect, e.IsOf i s ∧ o = e.perform s ∧ o' = e.perform s'

section
variable {i : Instr} {s s' : State} {rs0 rs1 rd : RegNum}

theorem sameEffect_binaryRR {f : Word → Word → Word} (h : ∀ r ∈ sources i, readReg s' r = readReg s r)
    (hs : sources i = [rs0, rs1]) (he : ∀ v, Effect.IsOf { write := some (rd, v) } i s) :
    SameEffect i s s' (binaryRR f rs0 rs1 rd s) (binaryRR f rs0 rs1 rd s') := by
  simp only [hs, List.forall_mem_cons] at h
  obtain ⟨h0, h1, -⟩ := h
  refine ⟨_, he (f (readReg s rs0) (readReg s rs1)), finishWith_eq_perform s rd _, ?_⟩
  rw [binaryRR, h0, h1]
  exact finishWith_eq_perform s' rd _

theorem sameEffect_binaryRI {f : Word → Word} (h : ∀ r ∈ sources i, readReg s' r = readReg s r)
    (hs : sources i = [rs0]) (he : ∀ v, Effect.IsOf { write := some (rs1, v) } i s) :
    SameEffect i s s' (binaryRI f rs0 rs1 s) (binaryRI f rs0 rs1 s') := by
  simp only [hs, List.forall_mem_cons] at h
  obtain ⟨h0, -⟩ := h
  refine ⟨_, he (f (readReg s rs0)), finishWith_eq_perform s rs1 _, ?_⟩
  rw [binaryRI, h0]
  exact finishWith_eq_perform s' rs1 _

theorem sameEffect_load {imm : Half} {n : Nat} (value : Word → Word)
    (h : ∀ r ∈ sources i, readReg s' r = readReg s r) (hs : sources i = [rs0])
    (he : ∀ v, Effect.IsOf { access := some (.load (effectiveAddress s rs0 imm) n), write := some (rs1, v) } i s) :
    SameEffect i s s' (loadInto s (effectiveAddress s rs0 imm) n rs1 (value (effectiveAddress s rs0 imm)))
      (loadInto s' (effectiveAddress s' rs0 imm) n rs1 (value (effectiveAddress s' rs0 imm))) := by
  simp only [hs, List.forall_mem_cons] at h
  obtain ⟨h0, -⟩ := h
  have hea : effectiveAddress s' rs0 imm = effectiveAddress s rs0 imm := by rw [effectiveAddress, h0]; rfl
  refine ⟨_, he (value (effectiveAddress s rs0 imm)), loadInto_eq_perform s _ n rs1 _, ?_⟩
  rw [hea]
  exact loadInto_eq_perform s' _ n rs1 _

theorem sameEffect_store {imm : Half} (bytes : Word → List Byte) (h : ∀ r ∈ sources i, readReg s' r = readReg s r)
    (hs : sources i = [rs0, rs1])
    (he : Effect.IsOf { access := some (.store (effectiveAddress s rs0 imm) (bytes (readReg s rs1))) } i s) :
    SameEffect i s s' (storeAt s (effectiveAddress s rs0 imm) (bytes (readReg s rs1)))
      (storeAt s' (effectiveAddress s' rs0 imm) (bytes (readReg s' rs1))) := by
  simp only [hs, List.forall_mem_cons] at h
  obtain ⟨h0, h1, -⟩ := h
  have hea : effectiveAddress s' rs0 imm = effectiveAddress s rs0 imm := by rw [effectiveAddress, h0]; rfl
  refine ⟨_, he, storeAt_eq_perform s _ _, ?_⟩
  rw [hea, h1]
  exact storeAt_eq_perform s' _ _

end

/-- Every instruction has one effect in two states in which its sources read alike. -/
theorem exec_sameEffect (i : Instr) (s : State) (g : Vector Word 32) (p : R0Policy)
    (h : ∀ r ∈ sources i, readReg (variant s g p) r = readReg s r) :
    SameEffect i s (variant s g p) (exec i s) (exec i (variant s g p)) := by
  cases i
  case sll | srl | sra | mult | multu | add | addu | sub | subu | and | or | xor | slt | sgt | sle | sge | seq | sne =>
    simp only [exec, execSll, execSrl, execSra, execMult, execMultu, execAdd, execAddu, execSub, execSubu, execAnd,
      execOr, execXor, execSlt, execSgt, execSle, execSge, execSeq, execSne]
    exact sameEffect_binaryRR h rfl fun _ => ⟨rfl, rfl, rfl⟩
  case addi | addui | subi | subui | andi | ori | xori | slli | srli | srai | slti | sgti | slei | sgei | seqi | snei =>
    simp only [exec, execAddi, execAddui, execSubi, execSubui, execAndi, execOri, execXori, execSlli, execSrli,
      execSrai, execSlti, execSgti, execSlei, execSgei, execSeqi, execSnei]
    exact sameEffect_binaryRI h rfl fun _ => ⟨rfl, rfl, rfl⟩
  case lhi rs0 rs1 imm =>
    exact ⟨{ write := some (rs1, highImm imm) }, ⟨rfl, rfl, rfl⟩, finishWith_eq_perform _ _ _,
      finishWith_eq_perform _ _ _⟩
  case lb => exact sameEffect_load (fun a => sext (readByte s a)) h rfl fun _ => ⟨rfl, rfl, rfl⟩
  case lbu => exact sameEffect_load (fun a => zext (readByte s a)) h rfl fun _ => ⟨rfl, rfl, rfl⟩
  case lh => exact sameEffect_load (fun a => sext (readHalf s a)) h rfl fun _ => ⟨rfl, rfl, rfl⟩
  case lhu => exact sameEffect_load (fun a => zext (readHalf s a)) h rfl fun _ => ⟨rfl, rfl, rfl⟩
  case lw => exact sameEffect_load (readWord s) h rfl fun _ => ⟨rfl, rfl, rfl⟩
  case sb => exact sameEffect_store (fun v => [v.extractLsb' 0 8]) h rfl ⟨rfl, rfl, rfl⟩
  case sh => exact sameEffect_store (fun v => splitHalf s.cfg.endian (v.extractLsb' 0 16)) h rfl ⟨rfl, rfl, rfl⟩
  case sw => exact sameEffect_store (splitWord s.cfg.endian) h rfl ⟨rfl, rfl, rfl⟩
  case j offset =>
    exact ⟨_, ⟨rfl, rfl, rfl⟩, taken_eq_perform s (jumpTarget s offset), taken_eq_perform _ _⟩
  case jal offset =>
    exact ⟨_, ⟨rfl, rfl, rfl⟩, linked_eq_perform s s.cfg.linkRegJal (linkValue s) (jumpTarget s offset),
      linked_eq_perform _ _ _ _⟩
  case jr rs0 rs1 rd =>
    have h0 := h rs0 (by simp [sources])
    simp only [exec, execJr, h0]
    exact ⟨_, ⟨rfl, rfl, rfl⟩, taken_eq_perform _ _, taken_eq_perform _ _⟩
  case jalr rs0 rs1 rd =>
    have h0 := h rs0 (by simp [sources])
    simp only [exec, execJalr, h0]
    exact ⟨_, ⟨rfl, rfl, rfl⟩, linked_eq_perform _ _ _ _, linked_eq_perform _ _ _ _⟩
  case beqz rs0 rs1 imm =>
    have h0 := h rs0 (by simp [sources])
    simp only [exec, execBeqz, h0]
    split
    · exact ⟨_, ⟨rfl, rfl, rfl⟩, taken_eq_perform _ _, taken_eq_perform _ _⟩
    · exact ⟨_, ⟨rfl, rfl, rfl⟩, untaken_eq_perform _, untaken_eq_perform _⟩
  case bnez rs0 rs1 imm =>
    have h0 := h rs0 (by simp [sources])
    simp only [exec, execBnez, h0]
    split
    · exact ⟨_, ⟨rfl, rfl, rfl⟩, untaken_eq_perform _, untaken_eq_perform _⟩
    · exact ⟨_, ⟨rfl, rfl, rfl⟩, taken_eq_perform _ _, taken_eq_perform _ _⟩
  case div rs0 rs1 rd =>
    have h0 := h rs0 (by simp [sources])
    have h1 := h rs1 (by simp [sources])
    simp only [exec, execDiv, h0, h1]
    split
    · exact ⟨_, ⟨rfl, rfl, rfl⟩, finishWith_afterDraw_eq_perform _ _ _, finishWith_afterDraw_eq_perform _ _ _⟩
    · split
      · exact ⟨_, ⟨rfl, rfl, rfl⟩, finishWith_afterDraw_eq_perform _ _ _, finishWith_afterDraw_eq_perform _ _ _⟩
      · exact ⟨_, ⟨rfl, rfl, rfl⟩, finishWith_eq_perform _ _ _, finishWith_eq_perform _ _ _⟩
  case divu rs0 rs1 rd =>
    have h0 := h rs0 (by simp [sources])
    have h1 := h rs1 (by simp [sources])
    simp only [exec, execDivu, h0, h1]
    split
    · exact ⟨_, ⟨rfl, rfl, rfl⟩, finishWith_afterDraw_eq_perform _ _ _, finishWith_afterDraw_eq_perform _ _ _⟩
    · exact ⟨_, ⟨rfl, rfl, rfl⟩, finishWith_eq_perform _ _ _, finishWith_eq_perform _ _ _⟩

/-- Every execution is the performance of an effect. -/
theorem exec_effect (i : Instr) (s : State) : ∃ e : Effect, e.IsOf i s ∧ exec i s = e.perform s := by
  obtain ⟨e, he, hx, -⟩ := exec_sameEffect i s s.gpr s.cfg.r0Policy fun _ _ => rfl
  exact ⟨e, he, hx⟩

end Sys2Proof.Effects
end

section
/-! PROOFS. What an instruction changes, what it depends on, where it stops, and what R0_POLICY means for it: each once
for the form of `exec_effect`. -/

namespace Sys2Proof.Effects

open Sys2Proof Sys2Proof.Machine Sys2Proof.Stepping

/-! ### What an instruction changes -/

/-- An effect that answers leaves its one state. -/
theorem perform_next {e : Effect} {s t : State} (h : e.perform s = .next t) :
    e.check s = .next () ∧ t = e.after s := by
  obtain ⟨⟨⟩, hc, ht⟩ := andThen_next h
  cases ht
  exact ⟨hc, rfl⟩

theorem perform_of_check {e : Effect} {s : State} (h : e.check s = .next ()) : e.perform s = .next (e.after s) := by
  rw [Effect.perform, h]
  rfl

theorem perform_eq_fault {e : Effect} {s : State} {f : Fault} : e.perform s = .fault f ↔ e.check s = .fault f := by
  rw [Effect.perform]
  cases e.check s <;> simp [andThen]

theorem perform_eq_refused {e : Effect} {s : State} {r : Refusal} :
    e.perform s = .refused r ↔ e.check s = .refused r := by
  rw [Effect.perform]
  cases e.check s <;> simp [andThen]

/-- A register file keeps every register but the one written. -/
theorem registersAfter_other {w : Option (RegNum × Word)} {q : RegNum} (h : w.map Prod.fst ≠ some q) (p : R0Policy)
    (g : Vector Word 32) : (registersAfter p g w)[q.toNat]'q.isLt = g[q.toNat]'q.isLt := by
  rcases w with _ | ⟨r, v⟩
  · rfl
  · have hn : r.toNat ≠ q.toNat := fun e => h (congrArg some (BitVec.eq_of_toNat_eq e))
    rw [registersAfter]
    split
    · rfl
    · rw [Vector.getElem_set_ne _ _ hn]

/-- Settles O20, by `registersAfter_other`. -/
theorem instructionsChangeOnlyTheirDestination : Obligations.InstructionsChangeOnlyTheirDestination := by
  intro i s t h q hq
  obtain ⟨e, he, hx⟩ := exec_effect i s
  obtain ⟨-, rfl⟩ := perform_next (hx.symm.trans h)
  rw [← he.write] at hq
  simp only [readReg, Effect.after, registersAfter_other hq]

/-- Settles O21: only a store changes the memory, and only at its bytes. -/
theorem instructionsChangeOnlyTheBytesTheyStore : Obligations.InstructionsChangeOnlyTheBytesTheyStore := by
  intro i s t h b hb
  obtain ⟨e, he, hx⟩ := exec_effect i s
  obtain ⟨-, rfl⟩ := perform_next (hx.symm.trans h)
  rw [← he.access] at hb
  simp only [readByte, Effect.after]
  match ha : e.access with
  | none | some (.load _ _) => rfl
  | some (.store a bs) => rw [memoryAfter, cellRead_storeBytes_other _ _ _ _ (hb a bs ha)]

/-! ### What an instruction depends on -/

/-- The register an effect writes reads as the word written to it. -/
theorem readReg_after {e : Effect} {r : RegNum} {v : Word} (h : e.write = some (r, v)) (s : State) :
    readReg (e.after s) r = landed s r v := by
  simp only [readReg, Effect.after, landed, h, registersAfter]
  split <;> simp

/-- Settles O22: the effect is the same in both states, and neither its stops nor what it leaves outside the register
file depend on the registers. -/
theorem instructionsDependOnlyOnTheirSources : Obligations.InstructionsDependOnlyOnTheirSources := by
  intro i s s' hs h
  obtain ⟨e, he, hx, hx'⟩ := exec_sameEffect i s s'.gpr s.cfg.r0Policy (hs ▸ h)
  rw [show variant s s'.gpr s.cfg.r0Policy = s' from hs.symm] at hx'
  have hcheck : e.check s' = e.check s := by rw [hs]; rfl
  rw [hx, hx']
  simp only [perform_eq_fault, perform_eq_refused, hcheck]
  refine ⟨fun t ht => ?_, fun _ hf => hf, fun _ hf => hf⟩
  obtain ⟨hc, rfl⟩ := perform_next ht
  refine ⟨e.after s', perform_of_check (hcheck.trans hc), by rw [hs]; rfl, rfl, by rw [hs]; rfl, by rw [hs]; rfl, ?_⟩
  intro r hr
  rw [← he.write, Option.map_eq_some_iff] at hr
  obtain ⟨⟨r, v⟩, hw, rfl⟩ := hr
  rw [readReg_after hw, readReg_after hw, hs]
  rfl

/-! ### Where an instruction stops -/

/-- The stops of the check before a data access. -/
theorem checkOf_stops {s : State} {w : Option DataAccess} :
    (∀ f, checkOf s w = .fault f →
      f = .misalignedData ∧ ∃ a, w = some a ∧ (accessBase a).toNat % accessWidth a ≠ 0) ∧
    (∀ r, checkOf s w = .refused r →
      r = .neverAcknowledged ∧ ∃ a, w = some a ∧ ¬ Backed s (accessBase a) (accessWidth a)) := by
  rcases w with _ | a
  · exact ⟨fun _ h => (nomatch h), fun _ h => (nomatch h)⟩
  · simp only [checkOf, checkAccess]
    split
    · split
      · exact ⟨fun _ h => (nomatch h), fun _ h => (nomatch h)⟩
      · rename_i hk
        refine ⟨fun _ h => (nomatch h), fun r h => ?_⟩
        cases h
        exact ⟨rfl, a, rfl, mt (acknowledged_iff s _ _).2 hk⟩
    · rename_i ha
      refine ⟨fun f h => ?_, fun _ h => (nomatch h)⟩
      cases h
      exact ⟨rfl, a, rfl, by simpa [isAligned] using ha⟩

/-- A refused write is one of register 0 under R0_POLICY = refuse. -/
theorem refuses_iff (p : R0Policy) (w : Option (RegNum × Word)) :
    refuses p w = true ↔ p = .refuse ∧ ∃ v, w = some (0, v) ∧ v ≠ 0 := by
  rcases w with _ | ⟨r, v⟩
  · simp [refuses]
  · simp only [refuses, decide_eq_true_eq, Option.some.injEq, Prod.mk.injEq]
    constructor
    · rintro ⟨rfl, hp, hv⟩
      exact ⟨hp, v, ⟨rfl, rfl⟩, hv⟩
    · rintro ⟨hp, _, ⟨rfl, rfl⟩, hv⟩
      exact ⟨rfl, hp, hv⟩

/-- Settles O23, by the three stops of `Effect.check` in turn. -/
theorem instructionsStopOnlyAsNamed : Obligations.InstructionsStopOnlyAsNamed := by
  intro i s
  obtain ⟨e, he, hx⟩ := exec_effect i s
  rw [hx, ← he.control, ← he.access, ← he.write]
  simp only [perform_eq_fault, perform_eq_refused, Effect.check]
  cases hslot : e.control && s.pend.isSome
  case true =>
    refine ⟨fun f h => .inl ?_, fun r h => (nomatch h)⟩
    cases h
    simpa [Option.isSome_iff_ne_none] using hslot
  case false =>
    obtain ⟨hfault, hrefused⟩ := checkOf_stops (s := s) (w := e.access)
    cases ha : checkOf s e.access with
    | fault q =>
      refine ⟨fun f h => .inr (.inl ?_), fun r h => (nomatch h)⟩
      cases h
      exact hfault q ha
    | refused q =>
      refine ⟨fun f h => (nomatch h), fun r h => ?_⟩
      cases h
      exact hrefused q ha
    | next u =>
      cases hw : refuses s.cfg.r0Policy e.write
      case false => exact ⟨fun f h => (nomatch h), fun r h => (nomatch h)⟩
      case true =>
        obtain ⟨hp, v, hwrite, -⟩ := (refuses_iff _ _).1 hw
        refine ⟨fun f h => .inr (.inr ?_), fun r h => (nomatch h)⟩
        cases h
        exact ⟨rfl, by rw [hwrite]; rfl, hp⟩

/-! ### What R0_POLICY means for an instruction -/

theorem withPolicy_self {s : State} {p : R0Policy} (h : s.cfg.r0Policy = p) : withPolicy s p = s := by
  subst h
  rfl

/-- Register 0 reads alike under two policies, unless one of them hides a word other than 0 in it. -/
theorem readReg_withPolicy {s : State} {p : R0Policy} (hs : s.cfg.r0Policy = .refuse)
    (h : p = .hardwired → s.gpr[0] = 0) (r : RegNum) : readReg (withPolicy s p) r = readReg s r := by
  have hs' : ¬(r = 0 ∧ s.cfg.r0Policy = .hardwired) := by simp [hs]
  rw [readReg, readReg, if_neg hs']
  by_cases hr : r = 0 ∧ p = .hardwired
  · obtain ⟨rfl, hp⟩ := hr
    rw [if_pos ⟨rfl, hp⟩]
    exact (h hp).symm
  · exact if_neg hr

/-- An instruction has one effect under R0_POLICY = refuse and under another policy that reads register 0 alike. -/
theorem exec_effect_withPolicy (i : Instr) {s : State} {p : R0Policy} (hs : s.cfg.r0Policy = .refuse)
    (h : p = .hardwired → s.gpr[0] = 0) :
    SameEffect i s (withPolicy s p) (exec i s) (exec i (withPolicy s p)) :=
  exec_sameEffect i s s.gpr p fun r _ => readReg_withPolicy hs h r

/-- A write that R0_POLICY = refuse does not refuse leaves the same register file under every policy that reads
register 0 alike. -/
theorem registersAfter_of_not_refuses {p : R0Policy} {g : Vector Word 32} {w : Option (RegNum × Word)}
    (hw : refuses .refuse w = false) (h : p = .hardwired → g[0] = 0) :
    registersAfter p g w = registersAfter .refuse g w := by
  rcases w with _ | ⟨r, v⟩
  · rfl
  · simp only [registersAfter, reduceCtorEq, and_false, if_false]
    split
    · rename_i hr
      obtain ⟨rfl, hp⟩ := hr
      have hv : v = 0 := by simpa [refuses] using hw
      subst hv
      rw [← h hp]
      exact (Vector.set_getElem_self _).symm
    · rfl

/-- Where R0_POLICY = refuse does not refuse the write, an effect leaves the same state under every policy that reads
register 0 alike. -/
theorem after_withPolicy {e : Effect} {s : State} {p : R0Policy} (hs : s.cfg.r0Policy = .refuse)
    (hw : refuses .refuse e.write = false) (h : p = .hardwired → s.gpr[0] = 0) :
    e.after (withPolicy s p) = withPolicy (e.after s) p := by
  have hg := registersAfter_of_not_refuses hw h
  simp only [Effect.after, withPolicy, hs, hg]
  rfl

/-- The slot and the access let the effect go on, which no policy touches; then the register decides. -/
theorem check_withPolicy {e : Effect} {s : State} {p : R0Policy} (h : e.check (withPolicy s p) = .next ())
    (q : R0Policy) :
    e.check (withPolicy s q) = if refuses q e.write then .fault .r0Write else .next () := by
  have hparts : (e.control && s.pend.isSome) = false ∧ checkOf s e.access = .next () := by
    change (if e.control && s.pend.isSome then _ else andThen (checkOf s e.access) _) = _ at h
    split at h
    · cases h
    · rename_i hslot
      obtain ⟨⟨⟩, ha, -⟩ := andThen_next h
      exact ⟨by simpa using hslot, ha⟩
  obtain ⟨hslot, ha⟩ := hparts
  change (if e.control && s.pend.isSome then _ else andThen (checkOf s e.access) _) = _
  rw [hslot, ha]
  rfl

/-- No policy but refuse refuses a write, so what refuse lets happen no policy refuses. -/
theorem not_refuses_of_not_refuses {w : Option (RegNum × Word)} (h : refuses .refuse w = false) (p : R0Policy) :
    refuses p w = false := by
  by_contra hw
  obtain ⟨rfl, -⟩ := (refuses_iff p w).1 (by simpa using hw)
  exact hw h

/-- An execution that R0_POLICY = refuse lets happen is the execution under every policy, as long as register 0 holds
0. -/
theorem exec_withPolicy {i : Instr} {s t : State} (hs : s.cfg.r0Policy = .refuse) (hz : s.gpr[0] = 0)
    (h : exec i s = .next t) (p : R0Policy) : exec i (withPolicy s p) = .next (withPolicy t p) := by
  obtain ⟨e, -, hx, hx'⟩ := exec_effect_withPolicy i (p := p) hs fun _ => hz
  obtain ⟨hc, rfl⟩ := perform_next (hx.symm.trans h)
  have hself : e.check (withPolicy s .refuse) = .next () := by rwa [withPolicy_self hs]
  have hw : refuses .refuse e.write = false := by
    by_contra hw
    rw [check_withPolicy hself .refuse, if_pos (by simpa using hw)] at hself
    cases hself
  rw [hx', perform_of_check, after_withPolicy hs hw fun _ => hz]
  rw [check_withPolicy hself p, not_refuses_of_not_refuses hw p]
  rfl

/-- Retiring an instruction does not look at R0_POLICY. -/
theorem retire_withPolicy (w : Word) (i : Instr) (s t : State) (p : R0Policy) :
    retire w i (withPolicy s p) (withPolicy t p) = withPolicy (retire w i s t) p := by
  have hd : destination (withPolicy s p).cfg i = destination s.cfg i := by cases i <;> rfl
  simp only [retire, hazardMark, hd]
  rfl

/-- Settles O24: the reset step and the fetch do not look at R0_POLICY, the execution is `exec_withPolicy`. -/
theorem refusePolicyAgreesWithTheOthers : Obligations.RefusePolicyAgreesWithTheOthers := by
  intro s t hs hz h p
  rcases step_next h with ⟨hr, rfl⟩ | ⟨w, i, u, hr, ha, hw, hd, hsoon, hu, rfl⟩
  · exact step_of_resetPin hr
  · have hf : fetch (withPolicy s p) = .next (w, i) := fetch_decoded ((isAligned_iff _ _).1 ha) hw hd
    have hsoon' : readsTooSoon i (withPolicy s p) = false := hsoon
    rw [step_of_fetch_next (s := withPolicy s p) hr hf, hsoon', exec_withPolicy hs hz hu p, ← retire_withPolicy]
    rfl

/-- A write of register 0 that is not discarded leaves the word there. -/
theorem registersAfter_zero {p : R0Policy} (hp : p ≠ .hardwired) (g : Vector Word 32) (v : Word) :
    (registersAfter p g (some (0, v)))[0] = v := by
  simp [registersAfter, hp]

/-- Settles O25: under both policies the execution is the one of one effect, whose write of register 0 leaves its word
there under ordinary. -/
theorem refusePolicyFaultsExactlyOnNonzeroWrites : Obligations.RefusePolicyFaultsExactlyOnNonzeroWrites := by
  intro i s t hs h
  obtain ⟨e, he, hx, hx'⟩ := exec_effect_withPolicy i (p := .ordinary) hs fun hp => nomatch hp
  obtain ⟨hc, rfl⟩ := perform_next (hx'.symm.trans h)
  have hcheck := check_withPolicy hc .refuse
  rw [withPolicy_self hs] at hcheck
  have hzero (v : Word) (hv : e.write = some (0, v)) : (e.after (withPolicy s .ordinary)).gpr[0] = v := by
    simp only [Effect.after, hv]
    exact registersAfter_zero (p := .ordinary) (by decide) _ v
  rw [hx, ← he.write]
  cases hw : refuses .refuse e.write
  case true =>
    obtain ⟨-, v, hv, hne⟩ := (refuses_iff _ _).1 hw
    rw [if_pos ⟨by rw [hv]; rfl, by rwa [hzero v hv]⟩]
    exact perform_eq_fault.2 (by rw [hcheck, if_pos hw])
  case false =>
    rw [if_neg, perform_of_check (by rw [hcheck, hw]; rfl), after_withPolicy (p := .ordinary) hs hw fun hp => nomatch hp]
    · exact congrArg _ (withPolicy_self (s := e.after s) hs).symm
    · rintro ⟨hd, hne⟩
      obtain ⟨⟨r, v⟩, hv, rfl⟩ := Option.map_eq_some_iff.1 hd
      rw [hzero v hv] at hne
      rw [(refuses_iff _ _).2 ⟨rfl, v, hv, hne⟩] at hw
      cases hw

end Sys2Proof.Effects
end

section
/-! PROOFS. The fields an instruction ignores (rule R80), the end of a run (spec/60_exceptions.md rule R216), and the
data hazard over one step and over several (spec/70_reset_and_hazards.md rule R234). -/

namespace Sys2Proof.Running

open Sys2Proof Sys2Proof.Machine Sys2Proof.Stepping Sys2Proof.Transferring

/-! ### Ignored fields -/

/-- A shift amount of 5 bits depends on bits 4..0 of its immediate alone. -/
theorem shiftAmount_congr {c : Config} {imm imm' : Half} (hb : c.shamtBits = 5)
    (h : imm.extractLsb 4 0 = imm'.extractLsb 4 0) : shiftAmount c imm = shiftAmount c imm' := by
  have hn := congrArg BitVec.toNat h
  simpa [shiftAmount, hb] using hn

/-- The link register of JALR does not depend on `rd` where it is a fixed one. -/
theorem jalrLink_congr {c : Config} (h : c.linkRegJalr ≠ .rdField) (rd rd' : RegNum) :
    jalrLink c rd = jalrLink c rd' := by
  unfold jalrLink
  split
  · rfl
  · contradiction

/-- Settles O26: most meanings do not name the field at all; the others use it through `jalrLink` and
`shiftAmount`. -/
theorem unusedFieldsChangeNothing : Obligations.UnusedFieldsChangeNothing := by
  intro s a b b' c c' imm imm'
  refine ⟨rfl, rfl, fun h => ?_, rfl, rfl, rfl, fun hb h => ?_⟩
  · simp only [exec, execJalr, jalrLink_congr h c c']
  · simp only [exec, execSlli, execSrli, execSrai, shiftAmount_congr hb h, and_self]

/-! ### The end of a run -/

/-- Writing 0 to a register 0 that reads 0 changes nothing, whatever R0_POLICY is. -/
theorem writeReg_zero_zero {s : State} (h : readReg s 0 = 0) : writeReg s 0 0 = .next s := by
  have hput (hz : s.gpr[0] = 0) : putReg s 0 0 = s := by
    have hset : s.gpr.set 0 0 = s.gpr := by
      rw [← hz]
      exact Vector.set_getElem_self _
    rw [putReg]
    exact congrArg (fun g => { s with gpr := g }) hset
  cases hp : s.cfg.r0Policy
  case hardwired => simp [writeReg, hp]
  all_goals
    have hz : s.gpr[0] = 0 := by simpa [readReg, hp] using h
    simpa [writeReg, hp] using hput hz

/-- The NOP 0, which is SLL 0, 0, 0, does nothing but advance where register 0 reads 0. -/
theorem exec_nop {s : State} (h : readReg s 0 = 0) : exec (.sll 0 0 0) s = .next (advance s) := by
  have hshift : (0 : Word) <<< shiftAmount s.cfg (0 : Word) = 0 := BitVec.zero_shiftLeft _
  rw [exec, execSll, binaryRR, h, hshift, finishWith, writeReg_zero_zero h]
  rfl

/-- The parts of the end of a run. -/
theorem atEnd_parts {s : State} (h : atEnd s = true) : s.pend = none ∧ cellRead (s.pc + 4).toNat s.imem = some 0 ∧
    ∃ w offset, cellRead s.pc.toNat s.imem = some w ∧ decode w = .ok (.j offset) ∧ jumpTarget s offset = s.pc := by
  simp only [atEnd, Bool.and_eq_true, decide_eq_true_eq] at h
  obtain ⟨⟨hp, hnop⟩, h⟩ := h
  refine ⟨hp, hnop, ?_⟩
  split at h
  · rename_i offset hd
    obtain ⟨w, hw, hd⟩ := Option.map_eq_some_iff.1 hd
    exact ⟨w, offset, hw, hd, by simpa using h⟩
  · cases h

/-- No hazard on register 0, before the jump and after it. -/
theorem not_readsTooSoon_nop {s : State} (h : s.cfg.rawDistance = 0 ∨ some 0 ∉ s.recent) :
    readsTooSoon (.sll 0 0 0) s = false := by
  rw [Bool.eq_false_iff]
  intro hz
  obtain ⟨r, hr, hm⟩ := (readsTooSoon_iff _ s).1 hz
  obtain rfl : r = 0 := by simpa [sources] using hr
  rcases h with h | h
  · simp [h] at hm
  · exact h (List.mem_of_mem_take hm)

/-- A step at a jump to itself goes to the slot and leaves the jump's own address pending. -/
theorem step_of_atEnd {s : State} (hend : atEnd s = true) (ha : s.pc.toNat % 4 = 0) (hr : s.resetPin = false) :
    ∃ w, step s = .next { s with
      pc := s.pc + 4, pend := some s.pc, ir := w, recent := (none :: s.recent).take 3 } := by
  obtain ⟨hp, -, w, offset, hw, hd, htarget⟩ := atEnd_parts hend
  have hjump : exec (.j offset) s = .next (transferTo s s.pc) := by
    rw [exec, execJ, outsideSlot_of_pend hp, htarget]
  refine ⟨w, ?_⟩
  rw [step_of_fetch_next hr (fetch_decoded ha hw hd), hjump]
  simp [readsTooSoon, sources, andThen, retire, hazardMark, destination, transferTo, nextPc, hp]

/-- A step at the NOP 0 advances and leaves 0 in IR, where register 0 reads 0 without a hazard. -/
theorem step_nop {s : State} (ha : s.pc.toNat % 4 = 0) (hw : cellRead s.pc.toNat s.imem = some 0)
    (hr : s.resetPin = false) (hz : readReg s 0 = 0) (hrecent : s.cfg.rawDistance = 0 ∨ some 0 ∉ s.recent) :
    step s = .next { advance s with ir := 0, recent := (none :: s.recent).take 3 } := by
  have hd : decode 0 = .ok (.sll 0 0 0) := Encoding.decode_of_encode_eq rfl
  rw [step_of_fetch_next hr (fetch_decoded ha hw hd), not_readsTooSoon_nop hrecent, exec_nop hz]
  simp [andThen, retire, hazardMark, destination]

/-- Settles O52: the jump leaves its own address pending, and the NOP in its slot goes there. -/
theorem endOfRunRepeats : Obligations.EndOfRunRepeats := by
  intro s hend ha hr hz hrecent
  obtain ⟨hp, hnop, -⟩ := atEnd_parts hend
  obtain ⟨w, hstep⟩ := step_of_atEnd hend ha hr
  refine ⟨_, hstep, ?_⟩
  have hslot : (s.pc + 4).toNat % 4 = 0 := by
    rw [BitVec.toNat_add]
    simp
    omega
  rw [step_nop (s := { s with pc := s.pc + 4, pend := some s.pc, ir := w, recent := (none :: s.recent).take 3 })
    hslot hnop hr hz]
  · simp [advance, nextPc, hp, List.take_take]
  · refine hrecent.imp id fun h hm => h ?_
    simpa using List.mem_of_mem_take hm

/-! ### The data hazard -/

/-- An execution faults for other reasons than the hazard. -/
theorem exec_ne_rawHazard (i : Instr) (s : State) : exec i s ≠ .fault .rawHazard := by
  intro h
  rcases (Effects.instructionsStopOnlyAsNamed i s).1 _ h with ⟨hf, -⟩ | ⟨hf, -⟩ | ⟨hf, -⟩ <;> cases hf

/-- A step that has fetched an instruction faults on a hazard exactly when the instruction reads too soon. -/
theorem step_rawHazard_iff {s : State} {w : Word} {i : Instr} (hr : s.resetPin = false)
    (hf : fetch s = .next (w, i)) : step s = .fault .rawHazard ↔ readsTooSoon i s = true := by
  rw [step_of_fetch_next hr hf]
  split
  · simp [*]
  · rename_i hz
    refine iff_of_false (fun h => ?_) hz
    rcases andThen_fault h with h | ⟨u, -, h⟩
    · exact exec_ne_rawHazard i s h
    · cases h

/-- A step leaves the destination of its instruction first among the recent ones, if the destination counts. -/
theorem step_recent_head {s t : State} {w : Word} {i : Instr} {r : RegNum} (hr : s.resetPin = false)
    (hf : fetch s = .next (w, i)) (hd : destination s.cfg i = some r) (hc : r ≠ 0 ∨ t.gpr[0] ≠ s.gpr[0])
    (h : step s = .next t) : t.recent[0]? = some (some r) := by
  obtain ⟨u, -, rfl⟩ := step_retires hr hf h
  have hmark : hazardMark i s u = some r := by
    rw [hazardMark, hd]
    exact if_neg fun ⟨hr0, hsame⟩ => hc.elim (· hr0) (· hsame)
  simp [hmark]

/-- A step moves the recent destinations one place on and keeps the pin and the parameters. -/
theorem step_recent_shift {s t : State} {r : RegNum} {k : Nat} (hr : s.resetPin = false) (h : step s = .next t)
    (hk : s.recent[k]? = some (some r)) (hlt : k + 1 < 3) :
    t.resetPin = false ∧ t.cfg = s.cfg ∧ t.recent[k + 1]? = some (some r) := by
  obtain ⟨-, hcfg, -, hpin⟩ := stepKeepsProgramAndParameters s t h
  obtain ⟨w, i, u, -, -, rfl⟩ := step_next_of_running hr h
  refine ⟨hpin.trans hr, hcfg, ?_⟩
  rw [retire_recent, List.getElem?_take_of_lt hlt, List.getElem?_cons_succ, hk]

theorem run_succ (n : Nat) (t : State) :
    Sys2Proof.core.run (n + 1) t = andThen (step t) (Sys2Proof.core.run n) := by
  simp only [Host.Core.run, show Sys2Proof.core.step t = step t from rfl]
  cases step t <;> rfl

/-- A run of `n` steps moves the recent destinations `n` places on, as long as they stay among the three kept. -/
theorem run_recent_shift {t u : State} {r : RegNum} {n k : Nat} (hr : t.resetPin = false)
    (h : Sys2Proof.core.run n t = .next u) (hk : t.recent[k]? = some (some r)) (hlt : k + n < 3) :
    u.resetPin = false ∧ u.cfg = t.cfg ∧ u.recent[k + n]? = some (some r) := by
  induction n generalizing t k with
  | zero =>
    cases h
    exact ⟨hr, rfl, hk⟩
  | succ n ih =>
    rw [run_succ] at h
    obtain ⟨t', ht', h⟩ := andThen_next h
    obtain ⟨hr', hcfg, hk'⟩ := step_recent_shift hr ht' hk (by omega)
    obtain ⟨hpin, hcfg', hn⟩ := ih hr' h hk' (by omega)
    exact ⟨hpin, hcfg'.trans hcfg, by rwa [Nat.add_assoc, Nat.add_comm 1] at hn⟩

/-- A reader of a destination among the latest RAW_DISTANCE faults. -/
theorem step_faults_of_recent {u : State} {w : Word} {j : Instr} {r : RegNum} {n : Nat} (hr : u.resetPin = false)
    (hf : fetch u = .next (w, j)) (hs : r ∈ sources j) (hn : u.recent[n]? = some (some r))
    (hlt : n < u.cfg.rawDistance) : step u = .fault .rawHazard := by
  refine (step_rawHazard_iff hr hf).2 ((readsTooSoon_iff j u).2 ⟨r, hs, List.mem_of_getElem? (i := n) ?_⟩)
  rw [List.getElem?_take_of_lt hlt, hn]

/-- Settles O54: the writer's destination moves `n` places on until the reader stands there. -/
theorem readersWithinThreePlacesOfAWriterFault : Obligations.ReadersWithinThreePlacesOfAWriterFault := by
  intro s t u w w' i j r n hr hf hd hc ht hu hlt hraw hf' hs
  obtain ⟨-, hcfg, -, hpin⟩ := stepKeepsProgramAndParameters s t ht
  obtain ⟨hr', hcfg', hn⟩ := run_recent_shift (hpin.trans hr) hu (step_recent_head hr hf hd hc ht) (by omega)
  rw [Nat.zero_add] at hn
  exact step_faults_of_recent hr' hf' hs hn (by rwa [hcfg', hcfg])

/-- Settles O53: the exact condition by `step_rawHazard_iff`; the reader right after its writer is the run of no steps
of O54; and under a RAW_DISTANCE of 0 no destination counts. -/
theorem readerRightAfterWriterFaults : Obligations.ReaderRightAfterWriterFaults :=
  ⟨fun s _ i hr hf => (step_rawHazard_iff hr hf).trans (readsTooSoon_iff i s),
    fun s t w w' i j r hr hf hd hc ht hf' hs hraw =>
      readersWithinThreePlacesOfAWriterFault s t t w w' i j r 0 hr hf hd hc ht rfl (by decide) hraw hf' hs,
    fun _ _ h => by simp [readsTooSoon, h]⟩

end Sys2Proof.Running
end
